-- ==== Sys2Proof/Word.lean ====
section
/-! DEFINITION. The word types of the DH5 codec block: the widths that 10_state.md and 30_encoding.md R51 give. -/

namespace Sys2Proof

/-- `u8`: a byte of a frame, or a byte operand A of a command word (R51). -/
abbrev Byte := BitVec 8

/-- `u16`: a half-word operand H or W of a command word (R51), a data word, a checksum. -/
abbrev Half := BitVec 16

/-- `s32` or a 32-bit read-port value: a position (R23, R24, R51 V32) or what R15 returns. -/
abbrev Full := BitVec 32

/-- One command word, delivered to the block whole (R51, R58). -/
abbrev CommandWord := BitVec 64

end Sys2Proof
end

