-- ==== Sys2Proof/Syntax.lean ====
section
/-! DEFINITION. The commands of the block: one constructor of `Instr` per row of spec/opcode_table.json (30_encoding.md
R54), with its operand fields at the widths of R51 and R53, and the names of the opcodes and formats (R52, R54). -/

namespace Sys2Proof

/-- A command with its operands. Each field is exactly as wide as its field of the command word (R51, R53), so every
term can be encoded; an operand value outside the source's range is still a command (R57). -/
inductive Instr where
  /-- CRC_INIT (R65). -/
  | crcInit
  /-- CRC_BYTE b (R66). -/
  | crcByte (b : Byte)
  /-- CRC_CHECK (R67). -/
  | crcCheck
  /-- RX_CLEAR (R71). -/
  | rxClear
  /-- RX_PUSH b (R72). -/
  | rxPush (b : Byte)
  /-- DW_WRITE index, value (R73). -/
  | dwWrite (index : Byte) (value : Half)
  /-- ENC_READ unit, address, count (R77). -/
  | encRead (unit : Byte) (address count : Half)
  /-- ENC_WRITE1 unit, address, value (R78). -/
  | encWrite1 (unit : Byte) (address value : Half)
  /-- ENC_WRITEN unit, address, count (R79). -/
  | encWriteN (unit : Byte) (address count : Half)
  /-- DEC_RESP function, count (R83). -/
  | decResp (fe : Byte) (cnt : Half)
  /-- ADDR_LINEAR base, axis (R97). -/
  | addrLinear (base : Half) (axis : Byte)
  /-- ADDR_FORCE base, axis (R98). -/
  | addrForce (base : Half) (axis : Byte)
  /-- PACK_UNIFORM mode (R99). -/
  | packUniform (mode : BitVec 2)
  /-- PACK_AXIS axis, mode (R100). -/
  | packAxis (axis : Byte) (mode : BitVec 2)
  /-- UNPACK word (R101). -/
  | unpack (word : Half)
  /-- UNPACK_DW index (R102). -/
  | unpackDw (index : Byte)
  /-- CAL_LOAD (R103). -/
  | calLoad
  /-- CAL_CLEAR (R104). -/
  | calClear
  /-- POS_SET axis, position (R105). -/
  | posSet (axis : Byte) (position : Full)
  /-- RATIO_SET axis, ratio (R106). -/
  | ratioSet (axis : Byte) (ratio : Half)
  /-- CLAMP (R107). -/
  | clamp
  /-- CLAMP_RATIO (R108). -/
  | clampRatio
  deriving DecidableEq, Repr

/-- The 22 opcodes, by the mnemonics of R54. -/
inductive Opcode where
  | crcInit | crcByte | crcCheck
  | rxClear | rxPush | dwWrite
  | encRead | encWrite1 | encWriteN
  | decResp
  | addrLinear | addrForce | packUniform | packAxis | unpack | unpackDw
  | calLoad | calClear | posSet | ratioSet | clamp | clampRatio
  deriving DecidableEq, Repr

/-- The opcode of a command. -/
def Instr.opcode : Instr → Opcode
  | .crcInit => .crcInit
  | .crcByte _ => .crcByte
  | .crcCheck => .crcCheck
  | .rxClear => .rxClear
  | .rxPush _ => .rxPush
  | .dwWrite _ _ => .dwWrite
  | .encRead _ _ _ => .encRead
  | .encWrite1 _ _ _ => .encWrite1
  | .encWriteN _ _ _ => .encWriteN
  | .decResp _ _ => .decResp
  | .addrLinear _ _ => .addrLinear
  | .addrForce _ _ => .addrForce
  | .packUniform _ => .packUniform
  | .packAxis _ _ => .packAxis
  | .unpack _ => .unpack
  | .unpackDw _ => .unpackDw
  | .calLoad => .calLoad
  | .calClear => .calClear
  | .posSet _ _ => .posSet
  | .ratioSet _ _ => .ratioSet
  | .clamp => .clamp
  | .clampRatio => .clampRatio

/-- The eleven formats of R52. -/
inductive Format where
  | n | b | f | d | i | g | mu | ma | u | x | p
  deriving DecidableEq, Repr

end Sys2Proof
end

