-- ==== Sys2Proof/Decode.lean ====
section
/-! DEFINITION. Command decode (30_encoding.md R51 to R58), total on every 64-bit word and rejecting by name, and the encoder
(R61). The opcode numbers are those of R54, the formats and masks those of R52. -/

namespace Sys2Proof

/-! ### The fields of a command word (R51) -/

/-- OP = w[63:56]. -/
def opField (w : CommandWord) : Byte := w.extractLsb' 56 8

/-- A = w[55:48]. -/
def aField (w : CommandWord) : Byte := w.extractLsb' 48 8

/-- H = w[47:32]. -/
def hField (w : CommandWord) : Half := w.extractLsb' 32 16

/-- W = w[31:16]. -/
def wField (w : CommandWord) : Half := w.extractLsb' 16 16

/-- L = w[15:0]. -/
def lField (w : CommandWord) : Half := w.extractLsb' 0 16

/-- The mode L[1:0] (R52, R53). -/
def modeField (w : CommandWord) : BitVec 2 := w.extractLsb' 0 2

/-- V32 = w[31:0], the concatenation W:L (R51). -/
def v32Field (w : CommandWord) : Full := w.extractLsb' 0 32

/-! ### The opcode map and the formats (R52, R54) -/

/-- The opcode number of each command (R54). -/
def Opcode.code : Opcode → Byte
  | .crcInit => 0x01#8
  | .crcByte => 0x02#8
  | .crcCheck => 0x03#8
  | .rxClear => 0x10#8
  | .rxPush => 0x11#8
  | .dwWrite => 0x12#8
  | .encRead => 0x20#8
  | .encWrite1 => 0x21#8
  | .encWriteN => 0x22#8
  | .decResp => 0x30#8
  | .addrLinear => 0x40#8
  | .addrForce => 0x41#8
  | .packUniform => 0x42#8
  | .packAxis => 0x43#8
  | .unpack => 0x44#8
  | .unpackDw => 0x45#8
  | .calLoad => 0x50#8
  | .calClear => 0x51#8
  | .posSet => 0x52#8
  | .ratioSet => 0x53#8
  | .clamp => 0x54#8
  | .clampRatio => 0x55#8

/-- The opcodes in the order of R54. -/
def Opcode.all : List Opcode :=
  [.crcInit, .crcByte, .crcCheck, .rxClear, .rxPush, .dwWrite, .encRead, .encWrite1, .encWriteN, .decResp,
   .addrLinear, .addrForce, .packUniform, .packAxis, .unpack, .unpackDw,
   .calLoad, .calClear, .posSet, .ratioSet, .clamp, .clampRatio]

/-- The format of each command (R54). -/
def Opcode.format : Opcode → Format
  | .crcInit => .n
  | .crcByte => .b
  | .crcCheck => .n
  | .rxClear => .n
  | .rxPush => .b
  | .dwWrite => .i
  | .encRead => .f
  | .encWrite1 => .f
  | .encWriteN => .f
  | .decResp => .d
  | .addrLinear => .g
  | .addrForce => .g
  | .packUniform => .mu
  | .packAxis => .ma
  | .unpack => .u
  | .unpackDw => .x
  | .calLoad => .n
  | .calClear => .n
  | .posSet => .p
  | .ratioSet => .i
  | .clamp => .n
  | .clampRatio => .n

/-- The mask of a format's fixed bits: the opcode and every reserved field (R52). -/
def Format.mask : Format → CommandWord
  | .n => 0xFFFFFFFFFFFFFFFF#64
  | .b => 0xFF00FFFFFFFFFFFF#64
  | .f => 0xFF0000000000FFFF#64
  | .d => 0xFF00FFFF0000FFFF#64
  | .i => 0xFF00FFFF0000FFFF#64
  | .g => 0xFF000000FFFFFFFF#64
  | .mu => 0xFFFFFFFFFFFFFFFC#64
  | .ma => 0xFF00FFFFFFFFFFFC#64
  | .u => 0xFFFF0000FFFFFFFF#64
  | .x => 0xFF00FFFFFFFFFFFF#64
  | .p => 0xFF00FFFF00000000#64

/-- What the fixed bits of a command must equal: zext_64(op) << 56 (R55). -/
def Opcode.matchWord (op : Opcode) : CommandWord := op.code.setWidth 64 <<< 56

/-- The opcode that a byte names, if R54 lists it. -/
def opcodeOfCode? (b : Byte) : Option Opcode := Opcode.all.find? fun op => op.code == b

/-! ### Decode (R55) -/

/-- Why a word is ILLEGAL (R55, R56). -/
inductive Illegal where
  /-- The opcode is none of R54. -/
  | reservedOpcode
  /-- A reserved field of the opcode's format is not zero. -/
  | reservedField
  deriving DecidableEq, Repr

/-- What decode answers: exactly one command, or ILLEGAL (R55). -/
inductive Decoded where
  | command (i : Instr)
  | illegal (why : Illegal)
  deriving DecidableEq, Repr

/-- The command of an opcode with its operand fields taken as they stand (R52, R53). -/
def instrOf (op : Opcode) (w : CommandWord) : Instr :=
  match op with
  | .crcInit => .crcInit
  | .crcByte => .crcByte (aField w)
  | .crcCheck => .crcCheck
  | .rxClear => .rxClear
  | .rxPush => .rxPush (aField w)
  | .dwWrite => .dwWrite (aField w) (wField w)
  | .encRead => .encRead (aField w) (hField w) (wField w)
  | .encWrite1 => .encWrite1 (aField w) (hField w) (wField w)
  | .encWriteN => .encWriteN (aField w) (hField w) (wField w)
  | .decResp => .decResp (aField w) (wField w)
  | .addrLinear => .addrLinear (hField w) (aField w)
  | .addrForce => .addrForce (hField w) (aField w)
  | .packUniform => .packUniform (modeField w)
  | .packAxis => .packAxis (aField w) (modeField w)
  | .unpack => .unpack (hField w)
  | .unpackDw => .unpackDw (aField w)
  | .calLoad => .calLoad
  | .calClear => .calClear
  | .posSet => .posSet (aField w) (v32Field w)
  | .ratioSet => .ratioSet (aField w) (wField w)
  | .clamp => .clamp
  | .clampRatio => .clampRatio

/-- Command decode (R55): a reserved opcode and a non-zero reserved field are rejected by name. -/
def decode (w : CommandWord) : Decoded :=
  match opcodeOfCode? (opField w) with
  | none => .illegal .reservedOpcode
  | some op =>
    if w &&& op.format.mask = op.matchWord then .command (instrOf op w) else .illegal .reservedField

/-- The instruction that the decoder reads from a row's word, numbered as spec/opcode_table.json numbers its bits: bit 0 is
the least significant bit of the one 64-bit word (R4, R51, R58; log 18). -/
def decodeTableWord (_nbits w : Nat) : Option Instr :=
  match decode (BitVec.ofNat 64 w) with
  | .command i => some i
  | .illegal _ => none

/-! ### Encode (R61) -/

/-- `w = (OP << 56) | (A << 48) | (H << 32) | (W << 16) | L` (R61). -/
def wordOf (op : Opcode) (a : Byte) (h w l : Half) : CommandWord :=
  op.code.setWidth 64 <<< 56 ||| a.setWidth 64 <<< 48 ||| h.setWidth 64 <<< 32 ||| w.setWidth 64 <<< 16 ||| l.setWidth 64

/-- The same with V32 in w[31:0], for POS_SET (R61). -/
def wordOfV32 (op : Opcode) (a : Byte) (v : Full) : CommandWord :=
  op.code.setWidth 64 <<< 56 ||| a.setWidth 64 <<< 48 ||| v.setWidth 64

/-- The word of a command, every reserved field zero (R52, R61). -/
def encode : Instr → CommandWord
  | .crcInit => wordOf .crcInit 0 0 0 0
  | .crcByte b => wordOf .crcByte b 0 0 0
  | .crcCheck => wordOf .crcCheck 0 0 0 0
  | .rxClear => wordOf .rxClear 0 0 0 0
  | .rxPush b => wordOf .rxPush b 0 0 0
  | .dwWrite index value => wordOf .dwWrite index 0 value 0
  | .encRead unit address count => wordOf .encRead unit address count 0
  | .encWrite1 unit address value => wordOf .encWrite1 unit address value 0
  | .encWriteN unit address count => wordOf .encWriteN unit address count 0
  | .decResp fe cnt => wordOf .decResp fe 0 cnt 0
  | .addrLinear base axis => wordOf .addrLinear axis base 0 0
  | .addrForce base axis => wordOf .addrForce axis base 0 0
  | .packUniform mode => wordOf .packUniform 0 0 0 (mode.setWidth 16)
  | .packAxis axis mode => wordOf .packAxis axis 0 0 (mode.setWidth 16)
  | .unpack word => wordOf .unpack 0 word 0 0
  | .unpackDw index => wordOf .unpackDw index 0 0 0
  | .calLoad => wordOf .calLoad 0 0 0 0
  | .calClear => wordOf .calClear 0 0 0 0
  | .posSet axis position => wordOfV32 .posSet axis position
  | .ratioSet axis ratio => wordOf .ratioSet axis 0 ratio 0
  | .clamp => wordOf .clamp 0 0 0 0
  | .clampRatio => wordOf .clampRatio 0 0 0 0

end Sys2Proof
end

