-- ==== Sys2Proof/Config.lean ====
section
/-! DEFINITION. What is fixed for one block: the implementation parameters of 00_scope.md section 4 (the OPEN ones
have no value here, R3), and the free values that stand where the spec leaves a content unspecified (U1, U2). -/

namespace Sys2Proof.Config

/-- P_MARGIN: the clamp's safety margin, 10 in this spec (R26). -/
def margin : Nat := 10

/-- The CRC's initial value (R64, 00_scope.md section 4). -/
def crcInit : Half := 0xFFFF#16

/-- The CRC's reflected polynomial (R63, 00_scope.md section 4). -/
def crcPoly : Half := 0xA001#16

/-- The largest count of a ReadRegisters request (R77). -/
def maxReadCount : Nat := 125

/-- The largest count of a WriteMultipleRegisters request (R79). -/
def maxWriteCount : Nat := 123

/-- The bytes of TXBUF, and of RXBUF (R17, R18). -/
def bufferSize : Nat := 256

/-- The words of DW (R27). -/
def dataWords : Nat := 125

/-- The address stride of position, speed and current (R96, R97). -/
def linearStride : Nat := 1

/-- The address stride of force (R96, R98). -/
def forceStride : Nat := 16

/-- The ratio 1.0 in UQ1.15 (R25, R106). -/
def ratioOne : Nat := 0x8000

/-- P_NORESP, the no-response-expected sentinel: `none` or one 8-bit code. OPEN (R3, U3): a constant with no body.
Nothing can be proved about its value; log 9. -/
opaque noresp : Option Byte

/-- P_MODE_CLOSE. OPEN, and no rule of the block reads it (R3, R95, U4; log 10). -/
opaque modeClose : BitVec 2

/-- P_MODE_OPEN. OPEN, and no rule of the block reads it (R3, R95, U4; log 10). -/
opaque modeOpen : BitVec 2

/-- P_MODE_FINDSTROKE. OPEN, and no rule of the block reads it (R3, R95, U4; log 10). -/
opaque modeFindStroke : BitVec 2

/-- The status code NotInitialized is 0b00 (00_scope.md section 4, R95). -/
def statusNotInitialized : BitVec 2 := 0b00#2

/-- P_STATUS_INITIALIZING. OPEN, and no rule of the block reads it (R3, R95, U4; log 10). -/
opaque statusInitializing : BitVec 2

/-- P_STATUS_INITIALIZED. OPEN, and no rule of the block reads it (R3, R95, R112, U4; log 10). -/
opaque statusInitialized : BitVec 2

/-- The two incompatible register layouts of the remote device (R45, 91_not_in_source.md N27). -/
inductive Layout where
  | early
  | later
  deriving DecidableEq, Repr, Inhabited

/-- P_LAYOUT. OPEN, and no rule of the block reads it (R3, R45, U4; log 10). -/
opaque layout : Layout

/-- The entities of the remote device's register map, as R45 names them. -/
inductive Entity where
  | initializationCommand
  | axisMode
  | initializationStatus
  | saveParameters
  | uartConfig
  | position
  | speed
  | force
  | acceleration
  | operatingStatus
  | positionStatus
  | speedStatus
  | currentStatus
  | currentFaults
  | faultHistory
  | resetFaults
  | restart
  | returnToZero
  | agingTest
  deriving DecidableEq, Repr

/-- P_BASE_<entity>. OPEN, and no rule of the block reads it: the host gives every base as an operand
(R3, R45, U4; log 10). -/
opaque base : Entity → Half

/-- Free value: what byte `i` of TXBUF holds when no command has written it since reset number `resets` (U1; log 4). -/
opaque freeTxByte (resets i : Nat) : Byte

/-- Free value: what byte `i` of RXBUF holds when no command has written it since reset number `resets` (U1; log 4). -/
opaque freeRxByte (resets i : Nat) : Byte

/-- Free value: what DW[i] holds when no command has written it since reset number `resets` (R33, U2; log 6). -/
opaque freeDataWord (resets i : Nat) : Half

/-- Free value: what the POS_IN word of zero-based slot `k` holds when no command has written it since reset number `resets`
(R33, U2; log 7). -/
opaque freePosition (resets k : Nat) : Full

/-- Free value: what the RATIO word of zero-based slot `k` holds when no command has written it since reset number `resets`
(R33, U2; log 8). -/
opaque freeRatio (resets k : Nat) : Half

end Sys2Proof.Config
end

