-- ==== Sys2Proof/Machine/State.lean ====
section
/-! DEFINITION. The state of the block as plain data: every register of 10_state.md, the written tags (R33), the command index
(R8), the build-time constant P_NORESP (R28), and the host's inputs not yet taken. `State.reset` is the block right after
reset (70_reset_and_hazards.md R131). -/

namespace Sys2Proof.Machine

/-- Six like registers, one per axis 1..6 (R20, R21, R23 to R25). -/
structure Axes (α : Type) where
  a1 : α
  a2 : α
  a3 : α
  a4 : α
  a5 : α
  a6 : α
  deriving DecidableEq, Repr

/-- An indexed array of `n`-bit elements (R34): the elements written since reset, each with its index, indexes strictly
rising. An index that is not listed has no value yet; for `n = 8` this is a list of `Host.Cell`. -/
abbrev Mem (n : Nat) := List (Nat × BitVec n)

/-- The canonical form: indexes strictly rising, so that equal arrays are equal lists. An unlisted index has no value, so no
listed value can equal it. -/
abbrev Mem.wf {n : Nat} (m : Mem n) : Prop := m.Pairwise fun x y => x.1 < y.1

/-- What the host does to the block between commands (R2, R130, R131): it issues a command word, legal or not, or asserts
reset. -/
inductive HostInput where
  | command (w : CommandWord)
  | reset
  deriving DecidableEq, Repr

/-- Why the machine stops: never. An error is a STATUS code and redirects nothing (R114, R117), every command terminates (R145),
and a command that reads an unwritten word goes on with that word's unspecified value (R33, U2; log 6). The fault that R33 gives
the model there is `UntaggedRead` (Machine/Guard.lean; log 15). -/
inductive Fault : Type
  deriving DecidableEq, Repr

/-- Why the model gives an instruction no meaning. -/
inductive Refusal where
  /-- Raised by `exec` for an instruction that has no meaning yet; none is left. Safe. -/
  | notModelled (mnemonic : String)
  deriving DecidableEq, Repr

/-- The whole state. Reset values and rules: INVENTORY.md, '## State'. -/
structure State where
  /-- STATUS (R9). -/
  status : Byte
  /-- RKIND (R10). -/
  rkind : Byte
  /-- RCOUNT (R11). -/
  rcount : Byte
  /-- EXC_CODE (R12). -/
  excCode : Byte
  /-- RX_UNIT (R13). -/
  rxUnit : Byte
  /-- RX_FC (R13). -/
  rxFc : Byte
  /-- LASTCRC (R14). -/
  lastCrc : Half
  /-- CRC, the streaming accumulator (R16). -/
  crc : Half
  /-- RES (R19). -/
  res : Half
  /-- FLAGS: bit 0 CALVALID, bit 1 UNCAL (R22). -/
  flags : BitVec 2
  /-- TXBUF (R17). -/
  txbuf : Mem 8
  /-- TXLEN (R17). -/
  txlen : BitVec 9
  /-- RXBUF (R18). -/
  rxbuf : Mem 8
  /-- RXLEN (R18). -/
  rxlen : BitVec 9
  /-- AXF[1..6] (R20). -/
  axf : Axes (BitVec 2)
  /-- CALMAX[1..6] (R21). -/
  calmax : Axes Half
  /-- POS_IN[1..6] (R23). -/
  posIn : Axes Full
  /-- The written tags of POS_IN (R33). -/
  posTag : Axes Bool
  /-- POS_OUT[1..6] (R24). -/
  posOut : Axes Full
  /-- RATIO[1..6] (R25). -/
  ratio : Axes Half
  /-- The written tags of RATIO (R33). -/
  ratioTag : Axes Bool
  /-- DW[0..124] (R27); DW[i]'s written tag (R33) is set exactly when i is listed (log 6). -/
  dw : Mem 16
  /-- P_NORESP, a build-time constant that no command and no reset changes (R28, R133; log 9). -/
  noresp : Option Byte
  /-- The host's inputs not yet taken, oldest first (R2; log 1). -/
  pending : List HostInput
  /-- The command index: how many commands have been taken (R8; log 1). -/
  cmdIndex : Nat
  /-- The model's own field: how many resets have been taken; every free value is applied to it (log 3, log 4). -/
  resets : Nat
  deriving DecidableEq, Repr

/-- The block right after reset (R131, and the reset value of R9 to R27). The fields of POS_IN and RATIO hold zero, a DESIGN
CHOICE: while a word's tag is clear every read gives its free value (log 7, log 8). No input is pending (log 1). -/
def State.reset : State where
  status := 0x00#8
  rkind := 0x00#8
  rcount := 0x00#8
  excCode := 0x00#8
  rxUnit := 0x00#8
  rxFc := 0x00#8
  lastCrc := 0x0000#16
  crc := 0xFFFF#16
  res := 0x0000#16
  flags := 0b00#2
  txbuf := []
  txlen := 0#9
  rxbuf := []
  rxlen := 0#9
  axf := ⟨0#2, 0#2, 0#2, 0#2, 0#2, 0#2⟩
  calmax := ⟨0#16, 0#16, 0#16, 0#16, 0#16, 0#16⟩
  posIn := ⟨0#32, 0#32, 0#32, 0#32, 0#32, 0#32⟩
  posTag := ⟨false, false, false, false, false, false⟩
  posOut := ⟨0#32, 0#32, 0#32, 0#32, 0#32, 0#32⟩
  ratio := ⟨0#16, 0#16, 0#16, 0#16, 0#16, 0#16⟩
  ratioTag := ⟨false, false, false, false, false, false⟩
  dw := []
  noresp := Config.noresp
  pending := []
  cmdIndex := 0
  resets := 0

/-- What a step, and the meaning of a command, answers. -/
abbrev Result := Host.Outcome State Fault Refusal

end Sys2Proof.Machine
end

