-- ==== Sys2Proof/Machine/Flags.lean ====
section
/-! DEFINITION. The FLAGS register (R22), the STATUS codes (R114) and the RKIND values (R10). -/

namespace Sys2Proof.Machine

/-- The names of the STATUS codes (R114). -/
inductive Status where
  | ok
  | illegalCommand
  | invalidArgument
  | incompleteFrame
  | checksumMismatch
  | unexpectedFunctionCode
  | deviceException
  | countMismatch
  | calibrationReadError
  | notCalibrated
  | rxOverflow
  | clampRangeEmpty
  deriving DecidableEq, Repr

/-- The STATUS code of a name (R114). -/
def statusCode : Status → Byte
  | .ok => 0x00#8
  | .illegalCommand => 0x01#8
  | .invalidArgument => 0x02#8
  | .incompleteFrame => 0x03#8
  | .checksumMismatch => 0x04#8
  | .unexpectedFunctionCode => 0x05#8
  | .deviceException => 0x06#8
  | .countMismatch => 0x07#8
  | .calibrationReadError => 0x08#8
  | .notCalibrated => 0x09#8
  | .rxOverflow => 0x0A#8
  | .clampRangeEmpty => 0x0B#8

/-- The names of the RKIND values (R10). -/
inductive ResponseKind where
  | none
  | registers
  | writeOk
  | norespAck
  deriving DecidableEq, Repr

/-- The RKIND value of a name (R10). -/
def kindCode : ResponseKind → Byte
  | .none => 0#8
  | .registers => 1#8
  | .writeOk => 2#8
  | .norespAck => 3#8

/-- FLAGS.CALVALID is bit 0 (R22). -/
def calValid (f : BitVec 2) : Bool := f.getLsbD 0

/-- FLAGS.UNCAL is bit 1 (R22). -/
def uncal (f : BitVec 2) : Bool := f.getLsbD 1

/-- FLAGS with CALVALID written and UNCAL kept (R22). -/
def withCalValid (b : Bool) (f : BitVec 2) : BitVec 2 := f &&& 0b10#2 ||| (BitVec.ofBool b).setWidth 2

/-- FLAGS with UNCAL written and CALVALID kept (R22). -/
def withUncal (b : Bool) (f : BitVec 2) : BitVec 2 := f &&& 0b01#2 ||| (BitVec.ofBool b).setWidth 2 <<< 1

end Sys2Proof.Machine
end

