-- ==== Sys2Proof/Machine/Ops.lean ====
section
/-! DEFINITION. The operations every command is made of: the six-axis files, the arrays, byte order, the checksum, the ends of a
command (`done` and `raise`, R5, R116: raising an error is all the exception there is, R117, R121), taking an input and reset. -/

namespace Sys2Proof.Machine

/-! ### Six-axis register files -/

/-- The register of zero-based slot `k`, axis `k + 1` (00_scope.md section 6, Axis). -/
def Axes.get {α : Type} (v : Axes α) : Fin 6 → α
  | 0 => v.a1
  | 1 => v.a2
  | 2 => v.a3
  | 3 => v.a4
  | 4 => v.a5
  | 5 => v.a6

/-- The six registers whose slot `k` holds `f k`. -/
def Axes.ofFn {α : Type} (f : Fin 6 → α) : Axes α := ⟨f 0, f 1, f 2, f 3, f 4, f 5⟩

/-- One register written, the others kept. -/
def Axes.set {α : Type} (v : Axes α) (k : Fin 6) (x : α) : Axes α := Axes.ofFn fun j => if j = k then x else v.get j

/-- Some flag of a file is set. -/
def Axes.anySet (v : Axes Bool) : Bool := v.a1 || v.a2 || v.a3 || v.a4 || v.a5 || v.a6

/-! ### Arrays (R5, R34) -/

/-- The element at index `i`, if one has been written. -/
def Mem.read {n : Nat} (m : Mem n) (i : Nat) : Option (BitVec n) :=
  match m with
  | [] => none
  | (j, v) :: rest => if j = i then some v else Mem.read rest i

/-- One element written; the list stays in its canonical form. -/
def Mem.write {n : Nat} (m : Mem n) (i : Nat) (v : BitVec n) : Mem n :=
  match m with
  | [] => [(i, v)]
  | (j, u) :: rest =>
    if i < j then (i, v) :: (j, u) :: rest
    else if i = j then (i, v) :: rest
    else (j, u) :: Mem.write rest i v

/-- `MemWrite(B, i, len(l), l)` (R5). -/
def Mem.writeList {n : Nat} (m : Mem n) (i : Nat) : List (BitVec n) → Mem n
  | [] => m
  | v :: vs => Mem.writeList (m.write i v) (i + 1) vs

/-- RXBUF[i]: the byte there, or the free value where none has been written (U1; log 4). -/
def rxByte (s : State) (i : Nat) : Byte := (s.rxbuf.read i).getD (Config.freeRxByte s.resets i)

/-- TXBUF[i], for the read port only: the byte there, or the free value where none has been written (U1; log 4). -/
def txByte (s : State) (i : Nat) : Byte := (s.txbuf.read i).getD (Config.freeTxByte s.resets i)

/-- DW[i]: the word a command has written, or the free value while its written tag is clear (R33, U2; log 6). -/
def dataWord (s : State) (i : Nat) : Half := (s.dw.read i).getD (Config.freeDataWord s.resets i)

/-- DW[0..n-1] (R79). -/
def stagedWords (s : State) (n : Nat) : List Half := (List.range n).map (dataWord s)

/-- POS_IN of slot `k`: the word a command has written, or the free value while its written tag is clear (R33, U2; log 7). -/
def positionWord (s : State) (k : Fin 6) : Full :=
  if s.posTag.get k then s.posIn.get k else Config.freePosition s.resets k.val

/-- RATIO of slot `k`: the word a command has written, or the free value while its written tag is clear (R33, U2; log 8). -/
def ratioWord (s : State) (k : Fin 6) : Half := if s.ratioTag.get k then s.ratio.get k else Config.freeRatio s.resets k.val

/-- `MemRead(RXBUF, i, n)` (R5). -/
def rxRead (s : State) (i n : Nat) : List Byte := (List.range n).map fun j => rxByte s (i + j)

/-- `MemRead(TXBUF, i, n)`, what the host reads to transmit a frame (R50, R74). -/
def txRead (s : State) (i n : Nat) : List Byte := (List.range n).map fun j => txByte s (i + j)

/-! ### Byte order (R5, R36) -/

/-- `be16(v)`: high byte first. -/
def be16 (v : Half) : List Byte := [v.extractLsb' 8 8, v.extractLsb' 0 8]

/-- `le16(v)`: low byte first. -/
def le16 (v : Half) : List Byte := [v.extractLsb' 0 8, v.extractLsb' 8 8]

/-- The 16-bit value of a high and a low byte, `zext_16(lo) OR (zext_16(hi) << 8)` (R37, R67). -/
def half (hi lo : Byte) : Half := lo.setWidth 16 ||| hi.setWidth 16 <<< 8

/-! ### The checksum (R63, R64) -/

/-- One iteration of the fold (R63). -/
def crcShift (c : Half) : Half := if c.getLsbD 0 then (c >>> 1) ^^^ Config.crcPoly else c >>> 1

/-- `k` iterations. -/
def crcShifts : Nat → Half → Half
  | 0, c => c
  | k + 1, c => crcShifts k (crcShift c)

/-- `crc_step(c, b)` (R63). -/
def crcStep (c : Half) (b : Byte) : Half := crcShifts 8 (c ^^^ b.setWidth 16)

/-- `crc16(l)` (R64). -/
def crc16 (l : List Byte) : Half := l.foldl crcStep Config.crcInit

/-! ### The ends of a command (R5, R116) -/

/-- STATUS written, nothing else. -/
def State.setStatus (s : State) (c : Status) : State := { s with status := statusCode c }

/-- `done`: the command ends with STATUS <- OK (R5). -/
def done (s : State) : Result := .next (s.setStatus .ok)

/-- `raise S(info)`: the command ends with STATUS <- S. `s` is the state with the detail registers of `info` written, and no
other (R5, R116). No control is redirected and nothing else is saved (R117, R121). -/
def raise (c : Status) (s : State) : Result := .next (s.setStatus c)

/-- LASTCRC written (R14). -/
def State.setLastCrc (s : State) (c : Half) : State := { s with lastCrc := c }

/-- RKIND and RCOUNT written, the pair DEC_RESP records (R10, R11, R90). -/
def State.setKind (s : State) (k : ResponseKind) (count : Byte) : State := { s with rkind := kindCode k, rcount := count }

/-- RX_UNIT and RX_FC written (R13). -/
def State.setHeader (s : State) (unit fc : Byte) : State := { s with rxUnit := unit, rxFc := fc }

/-- EXC_CODE written (R12). -/
def State.setExcCode (s : State) (c : Byte) : State := { s with excCode := c }

/-- FLAGS.CALVALID written (R22). -/
def State.setCalValid (s : State) (b : Bool) : State := { s with flags := withCalValid b s.flags }

/-- FLAGS.UNCAL written (R22). -/
def State.setUncal (s : State) (b : Bool) : State := { s with flags := withUncal b s.flags }

/-- A frame placed in TXBUF from index 0, with TXLEN and LASTCRC (R76). -/
def State.setFrame (s : State) (frame : List Byte) (c : Half) : State :=
  { s with txbuf := s.txbuf.writeList 0 frame, txlen := BitVec.ofNat 9 frame.length, lastCrc := c }

/-! ### Inputs and reset (R2, R131) -/

/-- The oldest pending input taken: it leaves `pending`, and a command advances the command index by 1 whatever its STATUS
(R8). -/
def State.takeCommand (s : State) (rest : List HostInput) : State := { s with pending := rest, cmdIndex := s.cmdIndex + 1 }

/-- Reset asserted between commands (R131): every register and tag takes its reset value; P_NORESP (R133), the inputs still to
come and the command index stay, and the reset counter advances (log 3). -/
def State.takeReset (s : State) (rest : List HostInput) : State :=
  { State.reset with noresp := s.noresp, pending := rest, cmdIndex := s.cmdIndex, resets := s.resets + 1 }

/-- A word that decodes to ILLEGAL executes as `raise ILLEGAL_COMMAND()` (R55). -/
def execIllegal (s : State) : Result := raise .illegalCommand s

/-- No input is pending: between commands the block is idle and holds all state (R129; log 2). -/
def idle (s : State) : Result := .next s

end Sys2Proof.Machine
end

