-- ==== Sys2Proof/Machine/Operands.lean ====
section
/-! DEFINITION. The operand checks and conversions of the commands (30_encoding.md R53, R57; 43 R76 to R79; 44 R91; 45 R97, R98;
46 R105, R106). A check that fails makes its command raise INVALID_ARGUMENT. -/

namespace Sys2Proof.Machine

/-- The zero-based slot of an axis identifier, `none` outside 1..6 (R53, R57). -/
def axisSlot? (axis : Byte) : Option (Fin 6) :=
  if h : 1 ≤ axis.toNat ∧ axis.toNat ≤ 6 then some ⟨axis.toNat - 1, by omega⟩ else none

/-- The index of a data word, `none` above 124 (R73, R102). -/
def dataIndex? (index : Byte) : Option Nat := if index.toNat < Config.dataWords then some index.toNat else none

/-- `check_unit`: unit address 0 is refused (R76). -/
def unitOk (unit : Byte) : Bool := unit != 0#8

/-- A count in 1..`most` (R77, R79, R91). -/
def countOk (count : Half) (most : Nat) : Bool := decide (1 ≤ count.toNat) && decide (count.toNat ≤ most)

/-- The operands of DEC_RESP: fe is 0x03, 0x06 or 0x10; for 0x03 the count is 1..125, for the others W is ignored (R91). -/
def expectationOk (fe : Byte) (cnt : Half) : Bool :=
  if fe = 0x03#8 then countOk cnt Config.maxReadCount else fe == 0x06#8 || fe == 0x10#8

/-- The address of slot `k` in a table of the given stride, computed exactly, `none` above 0xFFFF: no wrap-around
(R97, R98). -/
def axisAddress? (base : Half) (k : Fin 6) (stride : Nat) : Option Half :=
  if base.toNat + k.val * stride ≤ 0xFFFF then some (BitVec.ofNat 16 (base.toNat + k.val * stride)) else none

/-- A ratio in 0x0000..0x8000 (R106). -/
def ratioOk (ratio : Half) : Bool := decide (ratio.toNat ≤ Config.ratioOne)

end Sys2Proof.Machine
end

