-- ==== Sys2Proof/Machine/Buffers.lean ====
section
/-! DEFINITION. The staging commands of the receive buffer and the data words (42_buffers.md R71 to R73). -/

namespace Sys2Proof.Machine

/-- RX_CLEAR (R71): the bytes of RXBUF stay (log 5). -/
def execRxClear (s : State) : Result := done { s with rxlen := 0#9 }

/-- RX_PUSH b (R72). -/
def execRxPush (b : Byte) (s : State) : Result :=
  if s.rxlen = 256#9 then raise .rxOverflow s
  else done { s with rxbuf := s.rxbuf.write s.rxlen.toNat b, rxlen := s.rxlen + 1#9 }

/-- DW_WRITE index, value (R73): the word's written tag is set with it (R33). -/
def execDwWrite (index : Byte) (value : Half) (s : State) : Result :=
  match dataIndex? index with
  | none => raise .invalidArgument s
  | some i => done { s with dw := s.dw.write i value }

end Sys2Proof.Machine
end

