-- ==== Sys2Proof/Machine/Clamp.lean ====
section
/-! DEFINITION. The calibration store and the safety clamp (46_safety_clamp.md R103 to R111). -/

namespace Sys2Proof.Machine

/-- CAL_LOAD (R103). -/
def execCalLoad (s : State) : Result :=
  if s.rcount = 6#8 then done ({ s with calmax := Axes.ofFn fun k => dataWord s k.val }.setCalValid true)
  else raise .calibrationReadError s

/-- CAL_CLEAR (R104): CALMAX stays as it was. -/
def execCalClear (s : State) : Result := done (s.setCalValid false)

/-- POS_SET axis, position (R105): the word's written tag is set with it (R33). -/
def execPosSet (axis : Byte) (position : Full) (s : State) : Result :=
  match axisSlot? axis with
  | none => raise .invalidArgument s
  | some k => done { s with posIn := s.posIn.set k position, posTag := s.posTag.set k true }

/-- RATIO_SET axis, ratio (R106): the word's written tag is set with it (R33). -/
def execRatioSet (axis : Byte) (ratio : Half) (s : State) : Result :=
  match axisSlot? axis with
  | none => raise .invalidArgument s
  | some k =>
    if ratioOk ratio then done { s with ratio := s.ratio.set k ratio, ratioTag := s.ratioTag.set k true }
    else raise .invalidArgument s

/-- `hi(k) = zext(CALMAX[k]) - P_MARGIN`, a signed integer (R111). -/
def upperBound (s : State) (k : Fin 6) : Int := (s.calmax.get k).toNat - (Config.margin : Int)

/-- Some axis has an empty interval: hi(k) < 1 (R111). -/
def someRangeEmpty (s : State) : Bool := (Axes.ofFn fun k => decide (upperBound s k < 1)).anySet

/-- `clampv(p, h)` (R109). -/
def clampv (p h : Int) : Int := if p < 1 then 1 else if p > h then h else p

/-- `scale(r, m) = floor(r * m / 32768)` (R110). -/
def scale (r m : Half) : Nat := r.toNat * m.toNat / 32768

/-- POS_OUT[k] <- clampv(p k, hi(k)) for the six axes (R107, R108). -/
def clampedOut (s : State) (p : Fin 6 → Int) : Axes Full := Axes.ofFn fun k => BitVec.ofInt 32 (clampv (p k) (upperBound s k))

/-- CLAMP (R107): the calibration test, then the ranges. A position never written is bounded, or passed through, as its free
value (log 7); R33's fault is `untaggedRead?`. -/
def execClamp (s : State) : Result :=
  if calValid s.flags then
    if someRangeEmpty s then raise .clampRangeEmpty s
    else done ({ s with posOut := clampedOut s fun k => (positionWord s k).toInt }.setUncal false)
  else done ({ s with posOut := Axes.ofFn (positionWord s) }.setUncal true)

/-- CLAMP_RATIO (R108): the calibration test, then the ranges (R118). A ratio never written is scaled as its free value
(log 8); R33's fault is `untaggedRead?`. -/
def execClampRatio (s : State) : Result :=
  if calValid s.flags then
    if someRangeEmpty s then raise .clampRangeEmpty s
    else done { s with posOut := clampedOut s fun k => scale (ratioWord s k) (s.calmax.get k) }
  else raise .notCalibrated s

end Sys2Proof.Machine
end

