-- ==== Sys2Proof/Machine/Crc.lean ====
section
/-! DEFINITION. The CRC commands (41_crc.md R65 to R67). -/

namespace Sys2Proof.Machine

/-- CRC_INIT (R65). -/
def execCrcInit (s : State) : Result := done { s with crc := Config.crcInit }

/-- CRC_BYTE b (R66). -/
def execCrcByte (b : Byte) (s : State) : Result := done { s with crc := crcStep s.crc b }

/-- The checksum recomputed over RXBUF[0..n-3] (R67, R69, R85). -/
def computedCrc (s : State) : Half := crc16 (rxRead s 0 (s.rxlen.toNat - 2))

/-- The checksum received in the last two bytes, low byte first (R67, R85). -/
def receivedCrc (s : State) : Half := half (rxByte s (s.rxlen.toNat - 1)) (rxByte s (s.rxlen.toNat - 2))

/-- CRC_CHECK (R67). -/
def execCrcCheck (s : State) : Result :=
  if s.rxlen.toNat < 5 then raise .incompleteFrame s
  else if computedCrc s ≠ receivedCrc s then raise .checksumMismatch (s.setLastCrc (computedCrc s))
  else done (s.setLastCrc (computedCrc s))

end Sys2Proof.Machine
end

