-- ==== Sys2Proof/Machine/FrameDecode.lean ====
section
/-! DEFINITION. The frame decoder and response validator (44_frame_decode.md R83 to R93). -/

namespace Sys2Proof.Machine

/-- Value i of a ReadRegisters response: (RXBUF[3+2i] << 8) | RXBUF[4+2i] (R37). -/
def responseValue (s : State) (i : Nat) : Half := half (rxByte s (3 + 2 * i)) (rxByte s (4 + 2 * i))

/-- The first `count` values of a ReadRegisters response (R37, R89). -/
def responseValues (s : State) (count : Nat) : List Half := (List.range count).map (responseValue s)

/-- An exception response (R87): its code is RXBUF[2], a successful acknowledgement when P_NORESP is that code. -/
def takeException (s : State) : Result :=
  if s.noresp = some (rxByte s 2) then done ((s.setExcCode (rxByte s 2)).setKind .norespAck 0)
  else raise .deviceException ((s.setExcCode (rxByte s 2)).setKind .none 0)

/-- A ReadRegisters response (R89): exactly `2 * cnt` data bytes, or COUNT_MISMATCH; the count prefix is not compared. -/
def takeRegisters (cnt : Half) (s : State) : Result :=
  if (s.rxlen.toNat - 5) % 2 ≠ 0 ∨ (s.rxlen.toNat - 5) / 2 ≠ cnt.toNat then raise .countMismatch (s.setKind .none 0)
  else
    done ({ s with dw := s.dw.writeList 0 (responseValues s cnt.toNat) }.setKind .registers (BitVec.ofNat 8 cnt.toNat))

/-- The checks after the checksum: function code (R86), then the response of its kind (R87 to R89). -/
def takeResponse (fe : Byte) (cnt : Half) (s : State) : Result :=
  if rxByte s 1 = fe ||| 0x80#8 then takeException s
  else if rxByte s 1 ≠ fe then raise .unexpectedFunctionCode (s.setKind .none 0)
  else if fe = 0x06#8 ∨ fe = 0x10#8 then done (s.setKind .writeOk 0)
  else takeRegisters cnt s

/-- DEC_RESP fe, cnt (R83): operands (R91), length (R84), checksum (R85), then the rest; what each outcome writes is the table
of R90. -/
def execDecResp (fe : Byte) (cnt : Half) (s : State) : Result :=
  if expectationOk fe cnt then
    if s.rxlen.toNat < 5 then raise .incompleteFrame (s.setKind .none 0)
    else if computedCrc s ≠ receivedCrc s then
      raise .checksumMismatch ((s.setLastCrc (computedCrc s)).setKind .none 0)
    else takeResponse fe cnt ((s.setLastCrc (computedCrc s)).setHeader (rxByte s 0) (rxByte s 1))
  else raise .invalidArgument s

end Sys2Proof.Machine
end

