-- ==== Sys2Proof/Machine/FrameEncode.lean ====
section
/-! DEFINITION. The frame encoder (43_frame_encode.md R76 to R79). -/

namespace Sys2Proof.Machine

/-- `finish(body)`: the checksum is appended low byte first, and the frame is placed in TXBUF (R76). -/
def finishFrame (body : List Byte) (s : State) : Result :=
  done (s.setFrame (body ++ le16 (crc16 body)) (crc16 body))

/-- The body of an eight-byte request: unit, function code, address and one 16-bit field, high bytes first (R77, R78). -/
def shortBody (unit fc : Byte) (address field : Half) : List Byte := [unit, fc] ++ be16 address ++ be16 field

/-- The body of a WriteMultipleRegisters request (R79). -/
def writeBody (unit : Byte) (address count : Half) (values : List Half) : List Byte :=
  [unit, 0x10#8] ++ be16 address ++ be16 count ++ [BitVec.ofNat 8 (2 * count.toNat)] ++ values.flatMap be16

/-- ENC_READ unit, address, count (R77). -/
def execEncRead (unit : Byte) (address count : Half) (s : State) : Result :=
  if unitOk unit && countOk count Config.maxReadCount then finishFrame (shortBody unit 0x03#8 address count) s
  else raise .invalidArgument s

/-- ENC_WRITE1 unit, address, value (R78). -/
def execEncWrite1 (unit : Byte) (address value : Half) (s : State) : Result :=
  if unitOk unit then finishFrame (shortBody unit 0x06#8 address value) s
  else raise .invalidArgument s

/-- ENC_WRITEN unit, address, count (R79). A data word never written enters the frame as its free value (log 6); R33's
fault is `untaggedRead?`. -/
def execEncWriteN (unit : Byte) (address count : Half) (s : State) : Result :=
  if unitOk unit && countOk count Config.maxWriteCount then
    finishFrame (writeBody unit address count (stagedWords s count.toNat)) s
  else raise .invalidArgument s

end Sys2Proof.Machine
end

