-- ==== Sys2Proof/Machine/RegMap.lean ====
section
/-! DEFINITION. The per-axis address generator and the 2-bit packer and unpacker (45_regmap_bitpack.md R94 to R102). -/

namespace Sys2Proof.Machine

/-- RES <- the address of an axis in a table of the given stride, or INVALID_ARGUMENT (R97, R98). -/
def generateAddress (base : Half) (axis : Byte) (stride : Nat) (s : State) : Result :=
  match axisSlot? axis with
  | none => raise .invalidArgument s
  | some k =>
    match axisAddress? base k stride with
    | none => raise .invalidArgument s
    | some a => done { s with res := a }

/-- ADDR_LINEAR base, axis (R97). -/
def execAddrLinear (base : Half) (axis : Byte) (s : State) : Result := generateAddress base axis Config.linearStride s

/-- ADDR_FORCE base, axis (R98). -/
def execAddrForce (base : Half) (axis : Byte) (s : State) : Result := generateAddress base axis Config.forceStride s

/-- A 2-bit mode in slot `j` of a 16-bit word, every other bit 0 (R94, R99, R100). -/
def modeInSlot (mode : BitVec 2) (j : Nat) : Half := mode.setWidth 16 <<< (2 * j)

/-- The mode in each of the six slots (R99). -/
def uniformWord (mode : BitVec 2) : Half :=
  (List.range 6).foldl (fun r j => r ||| modeInSlot mode j) 0#16

/-- PACK_UNIFORM mode (R99). -/
def execPackUniform (mode : BitVec 2) (s : State) : Result := done { s with res := uniformWord mode }

/-- PACK_AXIS axis, mode (R100). -/
def execPackAxis (axis : Byte) (mode : BitVec 2) (s : State) : Result :=
  match axisSlot? axis with
  | none => raise .invalidArgument s
  | some k => done { s with res := modeInSlot mode k.val }

/-- The six 2-bit fields of a word, axis k in bits [2k-1 : 2k-2]; bits [15:12] are ignored (R94, R101). -/
def axisFields (w : Half) : Axes (BitVec 2) := Axes.ofFn fun k => w.extractLsb' (2 * k.val) 2

/-- UNPACK word (R101). -/
def execUnpack (word : Half) (s : State) : Result := done { s with axf := axisFields word }

/-- UNPACK_DW index (R102). A data word never written is split as its free value (log 6); R33's
fault is `untaggedRead?`. -/
def execUnpackDw (index : Byte) (s : State) : Result :=
  match dataIndex? index with
  | none => raise .invalidArgument s
  | some i => done { s with axf := axisFields (dataWord s i) }

end Sys2Proof.Machine
end

