-- ==== Sys2Proof/Machine/Dispatch.lean ====
section
/-! DEFINITION. `exec`: one arm per constructor of Instr, each one direct call of that command's meaning. -/

namespace Sys2Proof.Machine

/-- The meaning of each command (30_encoding.md R54). -/
def exec (i : Instr) (s : State) : Host.Outcome State Fault Refusal :=
  match i with
  | .crcInit => Sys2Proof.Machine.execCrcInit s
  | .crcByte b => Sys2Proof.Machine.execCrcByte b s
  | .crcCheck => Sys2Proof.Machine.execCrcCheck s
  | .rxClear => Sys2Proof.Machine.execRxClear s
  | .rxPush b => Sys2Proof.Machine.execRxPush b s
  | .dwWrite index value => Sys2Proof.Machine.execDwWrite index value s
  | .encRead unit address count => Sys2Proof.Machine.execEncRead unit address count s
  | .encWrite1 unit address value => Sys2Proof.Machine.execEncWrite1 unit address value s
  | .encWriteN unit address count => Sys2Proof.Machine.execEncWriteN unit address count s
  | .decResp fe cnt => Sys2Proof.Machine.execDecResp fe cnt s
  | .addrLinear base axis => Sys2Proof.Machine.execAddrLinear base axis s
  | .addrForce base axis => Sys2Proof.Machine.execAddrForce base axis s
  | .packUniform mode => Sys2Proof.Machine.execPackUniform mode s
  | .packAxis axis mode => Sys2Proof.Machine.execPackAxis axis mode s
  | .unpack word => Sys2Proof.Machine.execUnpack word s
  | .unpackDw index => Sys2Proof.Machine.execUnpackDw index s
  | .calLoad => Sys2Proof.Machine.execCalLoad s
  | .calClear => Sys2Proof.Machine.execCalClear s
  | .posSet axis position => Sys2Proof.Machine.execPosSet axis position s
  | .ratioSet axis ratio => Sys2Proof.Machine.execRatioSet axis ratio s
  | .clamp => Sys2Proof.Machine.execClamp s
  | .clampRatio => Sys2Proof.Machine.execClampRatio s

end Sys2Proof.Machine
end

