-- ==== Sys2Proof/Machine/Step.lean ====
section
/-! DEFINITION. One step of the block: the oldest pending host input is taken and runs whole (R2, R42, R144). -/

namespace Sys2Proof.Machine

/-- A command word taken by the block: decoded, then executed, or raised as ILLEGAL_COMMAND (R55). -/
def execWord (w : CommandWord) (s : State) : Result :=
  match decode w with
  | .command i => exec i s
  | .illegal _ => execIllegal s

/-- One step (R2, R8, R129, R131; log 1, log 2, log 3). -/
def step (s : State) : Host.Outcome State Fault Refusal :=
  match s.pending with
  | [] => idle s
  | .command w :: rest => execWord w (s.takeCommand rest)
  | .reset :: rest => .next (s.takeReset rest)

/-- The host's next input is the command word `w` (log 1, log 18): the head of `pending`, where step takes its next
command. -/
def State.withFetchWord (s : State) (_nbits w : Nat) : State :=
  { s with pending := .command (BitVec.ofNat 64 w) :: s.pending.tail }

end Sys2Proof.Machine
end

