-- ==== Sys2Proof/Machine/Assembler.lean ====
section
/-! DEFINITION. The assembler (30_encoding.md R59), on operand lists and on lines of text, and the pseudo-commands (R60). Host
tools: no rule of the block rests on them. -/

namespace Sys2Proof.Machine

/-- A number that fits an unsigned field of `n` bits (R59). -/
def fitUnsigned (n : Nat) (x : Int) : Option (BitVec n) :=
  if 0 ≤ x ∧ x.toNat < 2 ^ n then some (BitVec.ofNat n x.toNat) else none

/-- A number that fits a two's-complement field of 32 bits (R59). -/
def fitPosition (x : Int) : Option Full :=
  if -0x80000000 ≤ x ∧ x ≤ 0x7FFFFFFF then some (BitVec.ofInt 32 x) else none

/-- A command without operands. -/
def assembleNone (i : Instr) : List Int → Option Instr
  | [] => some i
  | _ :: _ => none

/-- A command with one operand that must fit its field. -/
def assembleOne {α : Type} (f : α → Instr) (fit : Int → Option α) : List Int → Option Instr
  | [x] => (fit x).map f
  | _ => none

/-- A command with two operands. -/
def assembleTwo {α β : Type} (f : α → β → Instr) (fit1 : Int → Option α) (fit2 : Int → Option β) :
    List Int → Option Instr
  | [x, y] =>
    match fit1 x, fit2 y with
    | some a, some b => some (f a b)
    | _, _ => none
  | _ => none

/-- A command with three operands. -/
def assembleThree {α β γ : Type} (f : α → β → γ → Instr) (fit1 : Int → Option α) (fit2 : Int → Option β)
    (fit3 : Int → Option γ) : List Int → Option Instr
  | [x, y, z] =>
    match fit1 x, fit2 y, fit3 z with
    | some a, some b, some c => some (f a b c)
    | _, _, _ => none
  | _ => none

/-- DEC_RESP: the count may be omitted for 0x06 and 0x10, and is then 0 (R59). -/
def assembleDecResp : List Int → Option Instr
  | [function] =>
    if function = 0x06 then some (.decResp 0x06#8 0#16) else if function = 0x10 then some (.decResp 0x10#8 0#16) else none
  | operands => assembleTwo .decResp (fitUnsigned 8) (fitUnsigned 16) operands

/-- A mnemonic and its operands in the order of R59: an operand that does not fit its field, and a missing or extra operand,
are refused. A value in its field but out of the source's range is assembled. -/
def assemble : Opcode → List Int → Option Instr
  | .crcInit => assembleNone .crcInit
  | .crcByte => assembleOne .crcByte (fitUnsigned 8)
  | .crcCheck => assembleNone .crcCheck
  | .rxClear => assembleNone .rxClear
  | .rxPush => assembleOne .rxPush (fitUnsigned 8)
  | .dwWrite => assembleTwo .dwWrite (fitUnsigned 8) (fitUnsigned 16)
  | .encRead => assembleThree .encRead (fitUnsigned 8) (fitUnsigned 16) (fitUnsigned 16)
  | .encWrite1 => assembleThree .encWrite1 (fitUnsigned 8) (fitUnsigned 16) (fitUnsigned 16)
  | .encWriteN => assembleThree .encWriteN (fitUnsigned 8) (fitUnsigned 16) (fitUnsigned 16)
  | .decResp => assembleDecResp
  | .addrLinear => assembleTwo .addrLinear (fitUnsigned 16) (fitUnsigned 8)
  | .addrForce => assembleTwo .addrForce (fitUnsigned 16) (fitUnsigned 8)
  | .packUniform => assembleOne .packUniform (fitUnsigned 2)
  | .packAxis => assembleTwo .packAxis (fitUnsigned 8) (fitUnsigned 2)
  | .unpack => assembleOne .unpack (fitUnsigned 16)
  | .unpackDw => assembleOne .unpackDw (fitUnsigned 8)
  | .calLoad => assembleNone .calLoad
  | .calClear => assembleNone .calClear
  | .posSet => assembleTwo .posSet (fitUnsigned 8) fitPosition
  | .ratioSet => assembleTwo .ratioSet (fitUnsigned 8) (fitUnsigned 16)
  | .clamp => assembleNone .clamp
  | .clampRatio => assembleNone .clampRatio

/-- The pseudo-commands (R60). -/
inductive Pseudo where
  | crcBlock (bytes : List Byte)
  | rxLoad (bytes : List Byte)
  | dwLoad (index : Byte) (values : List Half)
  | posLoad (positions : Axes Full)
  | ratioLoad (ratios : Axes Half)
  | encWriteNList (unit : Byte) (address : Half) (values : List Half)
  deriving DecidableEq, Repr

/-- `DW_WRITE i, v0` ... `DW_WRITE i+n-1, vn-1` (R60), or none where an index does not fit its field (R59). -/
def dwLoadCommands (i : Nat) : List Half → Option (List Instr)
  | [] => some []
  | v :: vs =>
    match fitUnsigned 8 i, dwLoadCommands (i + 1) vs with
    | some index, some rest => some (.dwWrite index v :: rest)
    | _, _ => none

/-- One command per axis, in the order 1..6. -/
def perAxis {α : Type} (f : Byte → α → Instr) (v : Axes α) : List Instr :=
  [f 1 v.a1, f 2 v.a2, f 3 v.a3, f 4 v.a4, f 5 v.a5, f 6 v.a6]

/-- The commands a pseudo-command expands to (R60), or none where an operand does not fit its field (R59). -/
def expand : Pseudo → Option (List Instr)
  | .crcBlock bytes => some (.crcInit :: bytes.map .crcByte)
  | .rxLoad bytes => some (.rxClear :: bytes.map .rxPush)
  | .dwLoad index values => dwLoadCommands index.toNat values
  | .posLoad positions => some (perAxis .posSet positions)
  | .ratioLoad ratios => some (perAxis .ratioSet ratios)
  | .encWriteNList unit address values =>
    match dwLoadCommands 0 values, fitUnsigned 16 values.length with
    | some commands, some count => some (commands ++ [.encWriteN unit address count])
    | _, _ => none

/-! ### Lines of text (R59; log 14) -/

/-- The mnemonic of each command (R54). -/
def mnemonicOf : Opcode → String
  | .crcInit => "CRC_INIT"
  | .crcByte => "CRC_BYTE"
  | .crcCheck => "CRC_CHECK"
  | .rxClear => "RX_CLEAR"
  | .rxPush => "RX_PUSH"
  | .dwWrite => "DW_WRITE"
  | .encRead => "ENC_READ"
  | .encWrite1 => "ENC_WRITE1"
  | .encWriteN => "ENC_WRITEN"
  | .decResp => "DEC_RESP"
  | .addrLinear => "ADDR_LINEAR"
  | .addrForce => "ADDR_FORCE"
  | .packUniform => "PACK_UNIFORM"
  | .packAxis => "PACK_AXIS"
  | .unpack => "UNPACK"
  | .unpackDw => "UNPACK_DW"
  | .calLoad => "CAL_LOAD"
  | .calClear => "CAL_CLEAR"
  | .posSet => "POS_SET"
  | .ratioSet => "RATIO_SET"
  | .clamp => "CLAMP"
  | .clampRatio => "CLAMP_RATIO"

/-- Spaces and tabs separate, and are ignored around a token (log 14). -/
def isBlank (c : Char) : Bool := c == ' ' || c == '\t'

/-- A token without the blanks around it. -/
def trimBlanks (l : List Char) : List Char := ((l.dropWhile isBlank).reverse.dropWhile isBlank).reverse

/-- The pieces between commas. -/
def splitCommas : List Char → List (List Char)
  | [] => [[]]
  | c :: rest =>
    match splitCommas rest with
    | [] => [[c]]
    | piece :: pieces => if c == ',' then [] :: piece :: pieces else (c :: piece) :: pieces

/-- The value of a digit, of either case above 9 (log 14). -/
def digitValue? (c : Char) : Option Nat :=
  if '0' ≤ c ∧ c ≤ '9' then some (c.toNat - 48)
  else if 'a' ≤ c ∧ c ≤ 'f' then some (c.toNat - 87)
  else if 'A' ≤ c ∧ c ≤ 'F' then some (c.toNat - 55)
  else none

/-- The digits of a number in the given base, after the value `v` read so far. -/
def digitsFrom (base v : Nat) : List Char → Option Nat
  | [] => some v
  | c :: rest =>
    match digitValue? c with
    | some d => if d < base then digitsFrom base (v * base + d) rest else none
    | none => none

/-- One digit or more. -/
def digits (base : Nat) (l : List Char) : Option Nat := if l.isEmpty then none else digitsFrom base 0 l

/-- A literal: hexadecimal with 0x, binary with 0b, otherwise decimal (R4). -/
def literal? : List Char → Option Nat
  | '0' :: 'x' :: rest => digits 16 rest
  | '0' :: 'b' :: rest => digits 2 rest
  | l => digits 10 l

/-- An operand: a literal, with a leading minus for a negative value (R59). R59 gives the minus to POS_SET only; here it may stand
before any operand, so that `-0` is 0 for every field, and any other negative value fails to fit an unsigned one (log 14). -/
def operand? : List Char → Option Int
  | '-' :: rest => (literal? rest).map fun n => -(n : Int)
  | l => (literal? l).map fun n => (n : Int)

/-- All of a list, or none. -/
def allOf {α : Type} : List (Option α) → Option (List α)
  | [] => some []
  | x :: rest =>
    match x, allOf rest with
    | some a, some l => some (a :: l)
    | _, _ => none

/-- A pseudo-command's name and operands (R60). -/
def pseudo? (name : List Char) (operands : List Int) : Option Pseudo :=
  if name = "CRC_BLOCK".toList then (allOf (operands.map (fitUnsigned 8))).map .crcBlock
  else if name = "RX_LOAD".toList then (allOf (operands.map (fitUnsigned 8))).map .rxLoad
  else if name = "DW_LOAD".toList then
    match operands with
    | [] => none
    | i :: values =>
      match fitUnsigned 8 i, allOf (values.map (fitUnsigned 16)) with
      | some index, some words => some (.dwLoad index words)
      | _, _ => none
  else if name = "POS_LOAD".toList then
    match allOf (operands.map fitPosition) with
    | some [p1, p2, p3, p4, p5, p6] => some (.posLoad ⟨p1, p2, p3, p4, p5, p6⟩)
    | _ => none
  else if name = "RATIO_LOAD".toList then
    match allOf (operands.map (fitUnsigned 16)) with
    | some [r1, r2, r3, r4, r5, r6] => some (.ratioLoad ⟨r1, r2, r3, r4, r5, r6⟩)
    | _ => none
  else if name = "ENC_WRITEN_LIST".toList then
    match operands with
    | u :: a :: values =>
      match fitUnsigned 8 u, fitUnsigned 16 a, allOf (values.map (fitUnsigned 16)) with
      | some unit, some address, some words => some (.encWriteNList unit address words)
      | _, _, _ => none
    | _ => none
  else none

/-- A mnemonic or the name of a pseudo-command, with its operands. -/
def assembleNamed (name : List Char) (operands : List Int) : Option (List Instr) :=
  match Opcode.all.find? fun op => (mnemonicOf op).toList == name with
  | some op => (assemble op operands).map fun i => [i]
  | none =>
    match pseudo? name operands with
    | some p => expand p
    | none => none

/-- The operands of a line, none where it has nothing after the mnemonic. -/
def lineOperands (l : List Char) : Option (List Int) :=
  if l.isEmpty then some [] else allOf ((splitCommas l).map fun piece => operand? (trimBlanks piece))

/-- One line: a command or a pseudo-command, or nothing but blanks and a comment; none where the line is refused (R59). -/
def assembleLine (line : String) : Option (List Instr) :=
  let text := trimBlanks (line.toList.takeWhile fun c => c != ';')
  let name := text.takeWhile fun c => !isBlank c
  if text.isEmpty then some []
  else
    match lineOperands (trimBlanks (text.drop name.length)) with
    | some operands => assembleNamed name operands
    | none => none

/-- Commands run one after the other: a STATUS error does not stop them (R60, R117). -/
def execAll : List Instr → State → Result
  | [], s => .next s
  | i :: rest, s =>
    match exec i s with
    | .next t => execAll rest t
    | .fault r => .fault r
    | .refused r => .refused r

end Sys2Proof.Machine
end

