-- ==== Sys2Proof/Machine/Guard.lean ====
section
/-! DEFINITION. The model's guard on untagged reads (10_state.md R33, 60_exceptions.md R118, 93_implementation_defined.md U2).
`exec` and `step` are the machine: its value of an untagged word is unspecified and it goes on. `execGuarded` and `stepGuarded` are
the same machine watched as R33 asks: a command that would read an untagged word returns no state and faults instead (log 15). -/

namespace Sys2Proof.Machine

/-- The fault of R33, by the file whose untagged word the command would read. Raised by `execGuarded` only; safe: nothing can be
proved of a state after it. -/
inductive UntaggedRead where
  /-- ENC_WRITEN or UNPACK_DW would read an untagged word of DW (R79, R102). -/
  | dataWord
  /-- CLAMP would read an untagged word of POS_IN (R107). -/
  | position
  /-- CLAMP_RATIO would read an untagged word of RATIO (R108). -/
  | ratio
  deriving DecidableEq, Repr

/-- What the guarded machine answers. -/
abbrev GuardedResult := Host.Outcome State UntaggedRead Refusal

/-- DW[0..n-1] have their written tags set (R33). -/
def dataTagged (s : State) (n : Nat) : Bool := (List.range n).all fun j => (s.dw.read j).isSome

/-- Every written tag of a six-axis file is set (R33). -/
def Axes.allTagged (v : Axes Bool) : Bool := v.a1 && v.a2 && v.a3 && v.a4 && v.a5 && v.a6

/-- The untagged read a command would make, where its rule places the fault: after the operand checks for ENC_WRITEN and
UNPACK_DW, before the calibration test for CLAMP, after NOT_CALIBRATED for CLAMP_RATIO (R33, R118). The other commands read no
tagged word, but for CAL_LOAD, whose rule has no fault (R33, R103; log 11). -/
def untaggedRead? (i : Instr) (s : State) : Option UntaggedRead :=
  match i with
  | .encWriteN unit _ count =>
    if unitOk unit && countOk count Config.maxWriteCount then
      if dataTagged s count.toNat then none else some .dataWord
    else none
  | .unpackDw index =>
    match dataIndex? index with
    | none => none
    | some j => if (s.dw.read j).isSome then none else some .dataWord
  | .clamp => if s.posTag.allTagged then none else some .position
  | .clampRatio => if calValid s.flags then if s.ratioTag.allTagged then none else some .ratio else none
  | .crcInit | .crcByte _ | .crcCheck | .rxClear | .rxPush _ | .dwWrite _ _ | .encRead _ _ _ | .encWrite1 _ _ _
  | .decResp _ _ | .addrLinear _ _ | .addrForce _ _ | .packUniform _ | .packAxis _ _ | .unpack _ | .calLoad | .calClear
  | .posSet _ _ | .ratioSet _ _ => none

/-- The machine's answer as the guarded machine gives it when no untagged word is read. The machine itself has no fault. -/
def unguarded : Result → GuardedResult
  | .next t => .next t
  | .fault f => nomatch f
  | .refused r => .refused r

/-- One command under R33: the fault where the command would read an untagged word, its own effect otherwise. -/
def execGuarded (i : Instr) (s : State) : GuardedResult :=
  match untaggedRead? i s with
  | some f => .fault f
  | none => unguarded (exec i s)

/-- One step under R33: a command word that decodes runs guarded; nothing else reads a tagged word. -/
def stepGuarded (s : State) : GuardedResult :=
  match s.pending with
  | .command w :: rest =>
    match decode w with
    | .command i => execGuarded i (s.takeCommand rest)
    | .illegal _ => unguarded (step s)
  | .reset :: _ => unguarded (step s)
  | [] => unguarded (step s)

end Sys2Proof.Machine
end

