-- ==== Sys2Proof/Machine/ReadPort.lean ====
section
/-! DEFINITION. The read port (10_state.md R15): a function of the state, with no side effect (20_memory.md R43; log 16). -/

namespace Sys2Proof.Machine

/-- The registers of the read-port map (R15); six-axis registers by zero-based slot. -/
inductive Reg where
  | status
  | rkind
  | rcount
  | excCode
  | rxUnit
  | rxFc
  | lastCrc
  | crc
  | res
  | flags
  | txlen
  | rxlen
  | axf (k : Fin 6)
  | calmax (k : Fin 6)
  | posIn (k : Fin 6)
  | posOut (k : Fin 6)
  | ratio (k : Fin 6)
  | dw (i : Fin 125)
  | txbuf (i : Fin 256)
  | rxbuf (i : Fin 256)
  deriving DecidableEq, Repr

/-- The register at one of the addresses 0x000..0x00B (R15). -/
def scalarAt? : Nat → Option Reg
  | 0x000 => some .status
  | 0x001 => some .rkind
  | 0x002 => some .rcount
  | 0x003 => some .excCode
  | 0x004 => some .rxUnit
  | 0x005 => some .rxFc
  | 0x006 => some .lastCrc
  | 0x007 => some .crc
  | 0x008 => some .res
  | 0x009 => some .flags
  | 0x00A => some .txlen
  | 0x00B => some .rxlen
  | _ => none

/-- The register at a read-port address, `none` where the map has no entry (R15). -/
def regAt? (a : BitVec 12) : Option Reg :=
  if h : 0x011 ≤ a.toNat ∧ a.toNat ≤ 0x016 then some (.axf ⟨a.toNat - 0x011, by omega⟩)
  else if h : 0x021 ≤ a.toNat ∧ a.toNat ≤ 0x026 then some (.calmax ⟨a.toNat - 0x021, by omega⟩)
  else if h : 0x031 ≤ a.toNat ∧ a.toNat ≤ 0x036 then some (.posIn ⟨a.toNat - 0x031, by omega⟩)
  else if h : 0x041 ≤ a.toNat ∧ a.toNat ≤ 0x046 then some (.posOut ⟨a.toNat - 0x041, by omega⟩)
  else if h : 0x051 ≤ a.toNat ∧ a.toNat ≤ 0x056 then some (.ratio ⟨a.toNat - 0x051, by omega⟩)
  else if h : 0x100 ≤ a.toNat ∧ a.toNat ≤ 0x17C then some (.dw ⟨a.toNat - 0x100, by omega⟩)
  else if h : 0x200 ≤ a.toNat ∧ a.toNat ≤ 0x2FF then some (.txbuf ⟨a.toNat - 0x200, by omega⟩)
  else if h : 0x300 ≤ a.toNat ∧ a.toNat ≤ 0x3FF then some (.rxbuf ⟨a.toNat - 0x300, by omega⟩)
  else scalarAt? a.toNat

/-- The value a register shows, zero-extended; POS_IN and POS_OUT as their 32-bit pattern (R15). A word never written since
reset shows a free value (U1, U2; log 4, log 6, log 7, log 8). -/
def regValue (s : State) : Reg → Full
  | .status => s.status.setWidth 32
  | .rkind => s.rkind.setWidth 32
  | .rcount => s.rcount.setWidth 32
  | .excCode => s.excCode.setWidth 32
  | .rxUnit => s.rxUnit.setWidth 32
  | .rxFc => s.rxFc.setWidth 32
  | .lastCrc => s.lastCrc.setWidth 32
  | .crc => s.crc.setWidth 32
  | .res => s.res.setWidth 32
  | .flags => s.flags.setWidth 32
  | .txlen => s.txlen.setWidth 32
  | .rxlen => s.rxlen.setWidth 32
  | .axf k => (s.axf.get k).setWidth 32
  | .calmax k => (s.calmax.get k).setWidth 32
  | .posIn k => positionWord s k
  | .posOut k => s.posOut.get k
  | .ratio k => (ratioWord s k).setWidth 32
  | .dw i => (dataWord s i.val).setWidth 32
  | .txbuf i => (txByte s i.val).setWidth 32
  | .rxbuf i => (rxByte s i.val).setWidth 32

/-- The read port: an address that is not in the map returns 0 (R15). -/
def readPort (s : State) (a : BitVec 12) : Full :=
  match regAt? a with
  | some r => regValue s r
  | none => 0#32

end Sys2Proof.Machine
end

