-- ==== Sys2Proof/WellFormed.lean ====
section
/-! DEFINITION. Well-formed commands: every operand lies in the range the source allows (R57, R91, R97, R98). A word whose
operand is out of range still decodes (R57); it executes and fails with INVALID_ARGUMENT. This file says the ranges a second
time, independently of the checks the meanings make (Machine/Operands.lean). -/

namespace Sys2Proof

/-- An axis identifier is 1..6 (R57). -/
def axisInRange (axis : Byte) : Bool := decide (1 ≤ axis.toNat ∧ axis.toNat ≤ 6)

/-- A DW index is 0..124 (R57). -/
def indexInRange (index : Byte) : Bool := decide (index.toNat ≤ 124)

/-- A unit address is 1..255 (R57, R76). -/
def unitInRange (unit : Byte) : Bool := decide (1 ≤ unit.toNat)

/-- An axis address fits 16 bits (R97, R98; log 13). -/
def addressFits (base : Half) (axis : Byte) (stride : Nat) : Bool :=
  decide (base.toNat + (axis.toNat - 1) * stride ≤ 0xFFFF)

/-- The operand ranges of each command (R57; for DEC_RESP R91, for the ADDR commands also R97 and R98). -/
def Instr.wellFormed : Instr → Bool
  | .crcInit => true
  | .crcByte _ => true
  | .crcCheck => true
  | .rxClear => true
  | .rxPush _ => true
  | .dwWrite index _ => indexInRange index
  | .encRead unit _ count => unitInRange unit && decide (1 ≤ count.toNat ∧ count.toNat ≤ 125)
  | .encWrite1 unit _ _ => unitInRange unit
  | .encWriteN unit _ count => unitInRange unit && decide (1 ≤ count.toNat ∧ count.toNat ≤ 123)
  | .decResp fe cnt =>
      (fe == 0x03#8 && decide (1 ≤ cnt.toNat ∧ cnt.toNat ≤ 125)) || fe == 0x06#8 || fe == 0x10#8
  | .addrLinear base axis => axisInRange axis && addressFits base axis 1
  | .addrForce base axis => axisInRange axis && addressFits base axis 16
  | .packUniform _ => true
  | .packAxis axis _ => axisInRange axis
  | .unpack _ => true
  | .unpackDw index => indexInRange index
  | .calLoad => true
  | .calClear => true
  | .posSet axis _ => axisInRange axis
  | .ratioSet axis ratio => axisInRange axis && decide (ratio.toNat ≤ 0x8000)
  | .clamp => true
  | .clampRatio => true

end Sys2Proof
end

