-- ==== Sys2Proof/Safety.lean ====
section
/-! DEFINITION. What counts as a sound state and a safe command: the invariant of every state a run reaches, the validity of
the frame in TXBUF, and the staging with which a command reads no unspecified word (10_state.md R33, 70_reset_and_hazards.md
R135). -/

namespace Sys2Proof.Machine

/-- The ranges and relations that the rules of 10_state.md give the registers. -/
structure State.Inv (s : State) : Prop where
  /-- TXBUF in canonical form, within its 256 bytes (R17, R34). -/
  txWf : s.txbuf.wf
  txRange : ∀ x ∈ s.txbuf, x.1 < 256
  /-- RXBUF in canonical form, within its 256 bytes (R18, R34). -/
  rxWf : s.rxbuf.wf
  rxRange : ∀ x ∈ s.rxbuf, x.1 < 256
  /-- DW in canonical form, within its 125 words (R27, R34). -/
  dwWf : s.dw.wf
  dwRange : ∀ x ∈ s.dw, x.1 < 125
  /-- TXLEN is 0..256 and every byte below it has been written (R17). -/
  txLen : s.txlen.toNat ≤ 256
  txFilled : ∀ i, i < s.txlen.toNat → (s.txbuf.read i).isSome
  /-- RXLEN is 0..256 and every byte below it has been written (R18). -/
  rxLen : s.rxlen.toNat ≤ 256
  rxFilled : ∀ i, i < s.rxlen.toNat → (s.rxbuf.read i).isSome
  /-- STATUS holds a listed code (R9, R114). -/
  statusLegal : s.status.toNat ≤ 0x0B
  /-- RKIND holds a listed value (R10). -/
  kindLegal : s.rkind.toNat ≤ 3
  /-- RCOUNT is 0..125 (R11), not 0 exactly when the last response returned registers (R90). -/
  countLegal : s.rcount.toNat ≤ 125
  kindCount : s.rkind = 1#8 ↔ s.rcount ≠ 0#8
  /-- The words of the last returned registers have their written tags set (R33, R90). -/
  countWritten : ∀ i, i < s.rcount.toNat → (s.dw.read i).isSome
  /-- A RATIO word that has been written holds no illegal value (R25). -/
  ratioLegal : ∀ k, s.ratioTag.get k = true → (s.ratio.get k).toNat ≤ 0x8000

/-- TXBUF holds no frame yet, or one that the encoder may emit: unit address not 0, function code 0x03, 0x06 or 0x10
(R81), the length of its command (R80), and the checksum of every byte before it, low byte first (R69, R76). -/
def State.TxFrameValid (s : State) : Prop :=
  s.txlen = 0#9 ∨
    (txByte s 0 ≠ 0#8 ∧
      ((txByte s 1 = 0x03#8 ∧ s.txlen = 8#9) ∨ (txByte s 1 = 0x06#8 ∧ s.txlen = 8#9) ∨
        (txByte s 1 = 0x10#8 ∧ ∃ n, 1 ≤ n ∧ n ≤ 123 ∧ s.txlen.toNat = 9 + 2 * n)) ∧
      txRead s (s.txlen.toNat - 2) 2 = le16 (crc16 (txRead s 0 (s.txlen.toNat - 2))))

/-- The operands a command reads from DW, POS_IN or RATIO have been staged (R33, R135): commands that read none need none. An
ENC_WRITEN or UNPACK_DW that fails its operand check, and a CLAMP_RATIO with no calibration, read none either (R118). R33 has the
model fault where this fails: `execGuarded` does, and `exec` goes on with a free value (log 15). -/
def Staged (i : Instr) (s : State) : Prop :=
  match i with
  | .encWriteN unit address count =>
      (Instr.encWriteN unit address count).wellFormed = true → ∀ j, j < count.toNat → (s.dw.read j).isSome
  | .unpackDw index => (Instr.unpackDw index).wellFormed = true → (s.dw.read index.toNat).isSome
  | .clamp => ∀ k, s.posTag.get k = true
  | .clampRatio => calValid s.flags = true → ∀ k, s.ratioTag.get k = true
  | .crcInit | .crcByte _ | .crcCheck | .rxClear | .rxPush _ | .dwWrite _ _ | .encRead _ _ _ | .encWrite1 _ _ _
  | .decResp _ _ | .addrLinear _ _ | .addrForce _ _ | .packUniform _ | .packAxis _ _ | .unpack _ | .calLoad | .calClear
  | .posSet _ _ | .ratioSet _ _ => True

/-- The states that steps reach from reset, whatever the host issues and whatever P_NORESP is. -/
inductive Reachable : State → Prop where
  | start (noresp : Option Byte) (inputs : List HostInput) :
      Reachable { State.reset with noresp := noresp, pending := inputs }
  | step {s t : State} (earlier : Reachable s) (h : Sys2Proof.Machine.step s = .next t) : Reachable t

end Sys2Proof.Machine
end

