-- ==== Sys2Proof/Certificates/Slice0/Obligations.lean ====
section
/-! DEFINITION. What is claimed of the model, statement by statement, each from the numbered rules of spec/. The helpers of
`Sys2Proof.Claims` say the spec's own words in arithmetic of their own, not through the model's definitions. -/

namespace Sys2Proof.Claims

open Sys2Proof.Machine

/-- Bits [15:8] of a 16-bit value. -/
def hi (v : Half) : Byte := BitVec.ofNat 8 (v.toNat / 256)

/-- Bits [7:0] of a 16-bit value. -/
def lo (v : Half) : Byte := BitVec.ofNat 8 (v.toNat % 256)

/-- The state after the host's oldest input, a command word, has been taken and before it executes (R8). -/
def taken (s : State) (rest : List HostInput) : State := { s with pending := rest, cmdIndex := s.cmdIndex + 1 }

/-- A word whose opcode byte is `op` decodes to `f w` when its fixed bits, those of `mask`, are right; otherwise it executes as
ILLEGAL_COMMAND and changes STATUS only (R52, R54, R55). -/
def EncodedAs (op : Byte) (mask : CommandWord) (f : CommandWord → Instr) : Prop :=
  ∀ w : CommandWord, w.extractLsb' 56 8 = op →
    (w &&& mask = op.setWidth 64 <<< 56 → decode w = .command (f w)) ∧
    (w &&& mask ≠ op.setWidth 64 <<< 56 → ∀ s, execWord w s = .next { s with status := 0x01#8 })

/-- The mask and match columns of spec/opcode_table.json. -/
def tableRow : Opcode → CommandWord × CommandWord
  | .crcInit => (0xFFFFFFFFFFFFFFFF#64, 0x0100000000000000#64)
  | .crcByte => (0xFF00FFFFFFFFFFFF#64, 0x0200000000000000#64)
  | .crcCheck => (0xFFFFFFFFFFFFFFFF#64, 0x0300000000000000#64)
  | .rxClear => (0xFFFFFFFFFFFFFFFF#64, 0x1000000000000000#64)
  | .rxPush => (0xFF00FFFFFFFFFFFF#64, 0x1100000000000000#64)
  | .dwWrite => (0xFF00FFFF0000FFFF#64, 0x1200000000000000#64)
  | .encRead => (0xFF0000000000FFFF#64, 0x2000000000000000#64)
  | .encWrite1 => (0xFF0000000000FFFF#64, 0x2100000000000000#64)
  | .encWriteN => (0xFF0000000000FFFF#64, 0x2200000000000000#64)
  | .decResp => (0xFF00FFFF0000FFFF#64, 0x3000000000000000#64)
  | .addrLinear => (0xFF000000FFFFFFFF#64, 0x4000000000000000#64)
  | .addrForce => (0xFF000000FFFFFFFF#64, 0x4100000000000000#64)
  | .packUniform => (0xFFFFFFFFFFFFFFFC#64, 0x4200000000000000#64)
  | .packAxis => (0xFF00FFFFFFFFFFFC#64, 0x4300000000000000#64)
  | .unpack => (0xFFFF0000FFFFFFFF#64, 0x4400000000000000#64)
  | .unpackDw => (0xFF00FFFFFFFFFFFF#64, 0x4500000000000000#64)
  | .calLoad => (0xFFFFFFFFFFFFFFFF#64, 0x5000000000000000#64)
  | .calClear => (0xFFFFFFFFFFFFFFFF#64, 0x5100000000000000#64)
  | .posSet => (0xFF00FFFF00000000#64, 0x5200000000000000#64)
  | .ratioSet => (0xFF00FFFF0000FFFF#64, 0x5300000000000000#64)
  | .clamp => (0xFFFFFFFFFFFFFFFF#64, 0x5400000000000000#64)
  | .clampRatio => (0xFFFFFFFFFFFFFFFF#64, 0x5500000000000000#64)

/-- The fixed bits of some row of the opcode table are right in `w`. -/
def InTable (w : CommandWord) : Prop := ∃ op, w &&& (tableRow op).1 = (tableRow op).2

/-- OP·2^56 + A·2^48 + H·2^32 + W·2^16 + L (R51). -/
def wordNat (op a h w l : Nat) : Nat := op * 2 ^ 56 + a * 2 ^ 48 + h * 2 ^ 32 + w * 2 ^ 16 + l

/-- The word of each command as a number (R51, R52, R54, R61). -/
def encodeNat : Instr → Nat
  | .crcInit => wordNat 0x01 0 0 0 0
  | .crcByte b => wordNat 0x02 b.toNat 0 0 0
  | .crcCheck => wordNat 0x03 0 0 0 0
  | .rxClear => wordNat 0x10 0 0 0 0
  | .rxPush b => wordNat 0x11 b.toNat 0 0 0
  | .dwWrite index value => wordNat 0x12 index.toNat 0 value.toNat 0
  | .encRead unit address count => wordNat 0x20 unit.toNat address.toNat count.toNat 0
  | .encWrite1 unit address value => wordNat 0x21 unit.toNat address.toNat value.toNat 0
  | .encWriteN unit address count => wordNat 0x22 unit.toNat address.toNat count.toNat 0
  | .decResp fe cnt => wordNat 0x30 fe.toNat 0 cnt.toNat 0
  | .addrLinear base axis => wordNat 0x40 axis.toNat base.toNat 0 0
  | .addrForce base axis => wordNat 0x41 axis.toNat base.toNat 0 0
  | .packUniform mode => wordNat 0x42 0 0 0 mode.toNat
  | .packAxis axis mode => wordNat 0x43 axis.toNat 0 0 mode.toNat
  | .unpack word => wordNat 0x44 0 word.toNat 0 0
  | .unpackDw index => wordNat 0x45 index.toNat 0 0 0
  | .calLoad => wordNat 0x50 0 0 0 0
  | .calClear => wordNat 0x51 0 0 0 0
  | .posSet axis position => wordNat 0x52 axis.toNat 0 0 position.toNat
  | .ratioSet axis ratio => wordNat 0x53 axis.toNat 0 ratio.toNat 0
  | .clamp => wordNat 0x54 0 0 0 0
  | .clampRatio => wordNat 0x55 0 0 0 0

/-- One of the 8 iterations of R63, on a number. -/
def foldBit (c : Nat) : Nat := if c % 2 = 1 then c / 2 ^^^ 0xA001 else c / 2

/-- R63 on numbers: the byte is XORed in, then 8 iterations. -/
def foldByte (c b : Nat) : Nat :=
  foldBit (foldBit (foldBit (foldBit (foldBit (foldBit (foldBit (foldBit (c ^^^ b))))))))

/-- The checksum that CRC_CHECK and DEC_RESP compute: over RXBUF[0..n-3] (R67, R69). -/
def calcCrc (s : State) : Half := crc16 (rxRead s 0 (s.rxlen.toNat - 2))

/-- The checksum received: the last two bytes of RXBUF, low byte first (R36, R67). -/
def recvCrc (s : State) : Half :=
  (rxByte s (s.rxlen.toNat - 2)).setWidth 16 ||| (rxByte s (s.rxlen.toNat - 1)).setWidth 16 <<< 8

/-- At least 5 bytes whose checksum is right: what passes checks 1 and 2 (R84, R85). -/
def FrameGood (s : State) : Prop := 5 ≤ s.rxlen.toNat ∧ calcCrc s = recvCrc s

/-- The operands that DEC_RESP accepts (R91). -/
def ExpectOk (fe : Byte) (cnt : Half) : Prop :=
  (fe = 0x03#8 ∧ 1 ≤ cnt.toNat ∧ cnt.toNat ≤ 125) ∨ fe = 0x06#8 ∨ fe = 0x10#8

/-- What DEC_RESP records of a frame that passed checks 1 and 2: LASTCRC, RX_UNIT and RX_FC (R13, R14, R90). -/
def received (s : State) : State := { s with lastCrc := calcCrc s, rxUnit := rxByte s 0, rxFc := rxByte s 1 }

/-- The command builds the frame `body` with its checksum, low byte first, in TXBUF from index 0 (R17, R76): every byte of the
frame, TXLEN, LASTCRC and STATUS are as said, the bytes of TXBUF above the frame read as before, and nothing else changes. -/
def BuildsFrame (i : Instr) (s : State) (body : List Byte) : Prop :=
  ∃ t, exec i s = .next t ∧
    t = { s with txbuf := t.txbuf, txlen := t.txlen, lastCrc := crc16 body, status := 0x00#8 } ∧
    t.txlen.toNat = body.length + 2 ∧
    (∀ j (h : j < body.length), t.txbuf.read j = some body[j]) ∧
    t.txbuf.read body.length = some (lo (crc16 body)) ∧
    t.txbuf.read (body.length + 1) = some (hi (crc16 body)) ∧
    ∀ j, body.length + 2 ≤ j → t.txbuf.read j = s.txbuf.read j

/-- A function on the next state, faults and refusals kept. -/
def mapNext (f : State → State) : Result → Result
  | .next t => .next (f t)
  | .fault r => .fault r
  | .refused r => .refused r

/-- The STATUS codes each command may end with: R114, column "raised by". ILLEGAL_COMMAND is raised for a word, not by a
command. -/
def statusesOf : Opcode → List Byte
  | .crcInit => [0x00]
  | .crcByte => [0x00]
  | .crcCheck => [0x00, 0x03, 0x04]
  | .rxClear => [0x00]
  | .rxPush => [0x00, 0x0A]
  | .dwWrite => [0x00, 0x02]
  | .encRead => [0x00, 0x02]
  | .encWrite1 => [0x00, 0x02]
  | .encWriteN => [0x00, 0x02]
  | .decResp => [0x00, 0x02, 0x03, 0x04, 0x05, 0x06, 0x07]
  | .addrLinear => [0x00, 0x02]
  | .addrForce => [0x00, 0x02]
  | .packUniform => [0x00]
  | .packAxis => [0x00, 0x02]
  | .unpack => [0x00]
  | .unpackDw => [0x00, 0x02]
  | .calLoad => [0x00, 0x08]
  | .calClear => [0x00]
  | .posSet => [0x00, 0x02]
  | .ratioSet => [0x00, 0x02]
  | .clamp => [0x00, 0x0B]
  | .clampRatio => [0x00, 0x09, 0x0B]

/-- What a failing command may change: STATUS and, for CRC_CHECK and DEC_RESP, the detail registers that R114 lists for that
STATUS (R116). -/
def FailureKeeps (op : Opcode) (s t : State) : Prop :=
  if op = .crcCheck ∧ t.status = 0x04#8 then t = { s with status := t.status, lastCrc := t.lastCrc }
  else if op = .decResp ∧ t.status = 0x03#8 then t = { s with status := t.status, rkind := t.rkind, rcount := t.rcount }
  else if op = .decResp ∧ t.status = 0x04#8 then
    t = { s with status := t.status, rkind := t.rkind, rcount := t.rcount, lastCrc := t.lastCrc }
  else if op = .decResp ∧ (t.status = 0x05#8 ∨ t.status = 0x07#8) then
    t = { s with status := t.status, rkind := t.rkind, rcount := t.rcount, lastCrc := t.lastCrc, rxUnit := t.rxUnit,
                 rxFc := t.rxFc }
  else if op = .decResp ∧ t.status = 0x06#8 then
    t = { s with status := t.status, rkind := t.rkind, rcount := t.rcount, lastCrc := t.lastCrc, rxUnit := t.rxUnit,
                 rxFc := t.rxFc, excCode := t.excCode }
  else t = { s with status := t.status }

/-- The read-port addresses that show what a command may write: R41, column "writes", and STATUS. -/
def Writes (i : Instr) (s : State) (a : Nat) : Prop :=
  a = 0x000 ∨
  match i with
  | .crcInit => a = 0x007
  | .crcByte _ => a = 0x007
  | .crcCheck => a = 0x006
  | .rxClear => a = 0x00B
  | .rxPush _ => a = 0x00B ∨ a = 0x300 + s.rxlen.toNat
  | .dwWrite index _ => a = 0x100 + index.toNat
  | .encRead _ _ _ => a = 0x006 ∨ a = 0x00A ∨ (0x200 ≤ a ∧ a ≤ 0x207)
  | .encWrite1 _ _ _ => a = 0x006 ∨ a = 0x00A ∨ (0x200 ≤ a ∧ a ≤ 0x207)
  | .encWriteN _ _ count => a = 0x006 ∨ a = 0x00A ∨ (0x200 ≤ a ∧ a ≤ 0x208 + 2 * count.toNat)
  | .decResp fe cnt => (1 ≤ a ∧ a ≤ 6) ∨ (fe = 0x03#8 ∧ 0x100 ≤ a ∧ a < 0x100 + cnt.toNat)
  | .addrLinear _ _ => a = 0x008
  | .addrForce _ _ => a = 0x008
  | .packUniform _ => a = 0x008
  | .packAxis _ _ => a = 0x008
  | .unpack _ => 0x011 ≤ a ∧ a ≤ 0x016
  | .unpackDw _ => 0x011 ≤ a ∧ a ≤ 0x016
  | .calLoad => a = 0x009 ∨ (0x021 ≤ a ∧ a ≤ 0x026)
  | .calClear => a = 0x009
  | .posSet axis _ => a = 0x030 + axis.toNat
  | .ratioSet axis _ => a = 0x050 + axis.toNat
  | .clamp => a = 0x009 ∨ (0x041 ≤ a ∧ a ≤ 0x046)
  | .clampRatio => 0x041 ≤ a ∧ a ≤ 0x046

/-- The operands of a command, in the assembler's order (R59). -/
def operandsOf : Instr → List Int
  | .crcInit | .crcCheck | .rxClear | .calLoad | .calClear | .clamp | .clampRatio => []
  | .crcByte b => [b.toNat]
  | .rxPush b => [b.toNat]
  | .dwWrite index value => [index.toNat, value.toNat]
  | .encRead unit address count => [unit.toNat, address.toNat, count.toNat]
  | .encWrite1 unit address value => [unit.toNat, address.toNat, value.toNat]
  | .encWriteN unit address count => [unit.toNat, address.toNat, count.toNat]
  | .decResp fe cnt => [fe.toNat, cnt.toNat]
  | .addrLinear base axis => [base.toNat, axis.toNat]
  | .addrForce base axis => [base.toNat, axis.toNat]
  | .packUniform mode => [mode.toNat]
  | .packAxis axis mode => [axis.toNat, mode.toNat]
  | .unpack word => [word.toNat]
  | .unpackDw index => [index.toNat]
  | .posSet axis position => [axis.toNat, position.toInt]
  | .ratioSet axis ratio => [axis.toNat, ratio.toNat]

/-- Two states that differ at most in the stored values of POS_IN and RATIO words whose written tag is clear. -/
def SameButUnwritten (s u : State) : Prop :=
  u = { s with posIn := u.posIn, ratio := u.ratio } ∧
  ∀ k, (s.posTag.get k = true → u.posIn.get k = s.posIn.get k) ∧ (s.ratioTag.get k = true → u.ratio.get k = s.ratio.get k)

/-- Two outcomes that are the same stop, or next states that differ as `SameButUnwritten` allows. -/
def SameOutcome : Result → Result → Prop
  | .next t, .next v => SameButUnwritten t v
  | .fault r, .fault r' => r = r'
  | .refused r, .refused r' => r = r'
  | _, _ => False

/-- DW[i]: the word a command has written since reset, or the free value while its written tag is clear (R33, U2; log 6). -/
def dwWord (s : State) (i : Nat) : Half :=
  match s.dw.read i with
  | some v => v
  | none => Config.freeDataWord s.resets i

/-- POS_IN of slot `k`: the word written, or the free value while its written tag is clear (R33, U2; log 7). -/
def posWord (s : State) (k : Fin 6) : Full :=
  if s.posTag.get k = true then s.posIn.get k else Config.freePosition s.resets k.val

/-- RATIO of slot `k`: the word written, or the free value while its written tag is clear (R33, U2; log 8). -/
def ratWord (s : State) (k : Fin 6) : Half :=
  if s.ratioTag.get k = true then s.ratio.get k else Config.freeRatio s.resets k.val

/-- The bound hi(k) = CALMAX[k] - 10 as an integer (R26, R111). -/
def bound (s : State) (k : Fin 6) : Int := ((s.calmax.get k).toNat : Int) - 10

/-- `p` bounded to the closed interval [1, h] (R109). -/
def bounded (p h : Int) : Int := max 1 (min p h)

end Sys2Proof.Claims

open Sys2Proof Sys2Proof.Machine Sys2Proof.Claims

/-! ### Encoding and stepping -/

/-- Decode answers, for the word of any command with any operands, that command (R55, R61). -/
def Obligations.DecodeOfEncode : Prop := ∀ i : Instr, decode (encode i) = .command i

/-- A word that decodes to a command is exactly the word the command encodes to: no bit of the word is ignored (R52, R55). -/
def Obligations.EncodeOfDecode : Prop := ∀ (w : CommandWord) (i : Instr), decode w = .command i → encode i = w

/-- R61, in numbers, with the rule's own examples. -/
def Obligations.EncodedWordsAsNumbers : Prop :=
  (∀ i : Instr, (encode i).toNat = encodeNat i) ∧
  encode (.encRead 1 0x0230 6) = 0x2001023000060000#64 ∧
  encode (.crcByte 0x31) = 0x0231000000000000#64 ∧
  encode (.decResp 0x03 6) = 0x3003000000060000#64 ∧
  encode (.packAxis 3 0b01) = 0x4303000000000001#64 ∧
  encode (.posSet 2 (BitVec.ofInt 32 (-5))) = 0x52020000FFFFFFFB#64 ∧
  encode (.ratioSet 1 0x4000) = 0x5301000040000000#64

/-- R55: a word whose fixed bits match a row of the opcode table decodes to exactly that command and runs as it; every other
word decodes to ILLEGAL and changes STATUS only. -/
def Obligations.DecodeIsTotal : Prop :=
  ∀ w : CommandWord,
    (∀ op, w &&& (tableRow op).1 = (tableRow op).2 →
      ∃ i, i.opcode = op ∧ decode w = .command i ∧ ∀ s, execWord w s = exec i s) ∧
    (¬ InTable w →
      (∃ why, decode w = .illegal why) ∧ ∀ s, execWord w s = .next { s with status := 0x01#8 })

/-- R56: the reserved opcodes, and no others, are rejected as reserved; the all-zero word is ILLEGAL. -/
def Obligations.ReservedOpcodesAreIllegal : Prop :=
  (∀ w : CommandWord,
    decode w = .illegal .reservedOpcode ↔
      (w.toNat / 2 ^ 56 = 0x00 ∨ (0x04 ≤ w.toNat / 2 ^ 56 ∧ w.toNat / 2 ^ 56 ≤ 0x0F) ∨
        (0x13 ≤ w.toNat / 2 ^ 56 ∧ w.toNat / 2 ^ 56 ≤ 0x1F) ∨ (0x23 ≤ w.toNat / 2 ^ 56 ∧ w.toNat / 2 ^ 56 ≤ 0x2F) ∨
        (0x31 ≤ w.toNat / 2 ^ 56 ∧ w.toNat / 2 ^ 56 ≤ 0x3F) ∨ (0x46 ≤ w.toNat / 2 ^ 56 ∧ w.toNat / 2 ^ 56 ≤ 0x4F) ∨
        (0x56 ≤ w.toNat / 2 ^ 56 ∧ w.toNat / 2 ^ 56 ≤ 0xFF))) ∧
  decode 0x0000000000000000#64 = .illegal .reservedOpcode

/-- R62: the rule's decode examples; the last one executes and fails with INVALID_ARGUMENT. -/
def Obligations.DecodeExamples : Prop :=
  decode 0x0000000000000000#64 = .illegal .reservedOpcode ∧
  decode 0x0100000000000001#64 = .illegal .reservedField ∧
  decode 0x4200000000000004#64 = .illegal .reservedField ∧
  decode 0x4207000000000002#64 = .illegal .reservedField ∧
  decode 0x4307000000000002#64 = .command (.packAxis 7 2) ∧
  ∀ s, exec (.packAxis 7 2) s = .next { s with status := 0x02#8 }

/-- A step takes the oldest input: a command word that decodes runs as `exec`, any other as ILLEGAL_COMMAND, on the state with
the input taken and the command index advanced. With no input the block is idle and holds all state (R129). The list of inputs
is the model's form of the host's commands (log 1, log 2). -/
def Obligations.StepRunsDecodedCommand : Prop :=
  (∀ (s : State) (w : CommandWord) (rest : List HostInput) (i : Instr),
    s.pending = .command w :: rest → decode w = .command i → step s = exec i (taken s rest)) ∧
  (∀ (s : State) (w : CommandWord) (rest : List HostInput) (why : Illegal),
    s.pending = .command w :: rest → decode w = .illegal why → step s = .next { taken s rest with status := 0x01#8 }) ∧
  ∀ s : State, s.pending = [] → step s = .next s

/-- R8: a command advances the command index by exactly 1, whatever its STATUS, and leaves the order of the commands to come;
the index is 0 at reset. -/
def Obligations.CommandIndexAdvancesByOne : Prop :=
  State.reset.cmdIndex = 0 ∧
  ∀ (s t : State) (w : CommandWord) (rest : List HostInput),
    s.pending = .command w :: rest → step s = .next t → t.cmdIndex = s.cmdIndex + 1 ∧ t.pending = rest

/-- R131: the reset state has the reset value that the rules of 10_state.md give each register, and every written tag is
clear. -/
def Obligations.ResetStateValues : Prop :=
  State.reset.status = 0x00#8 ∧ State.reset.rkind = 0#8 ∧ State.reset.rcount = 0#8 ∧ State.reset.excCode = 0x00#8 ∧
  State.reset.rxUnit = 0x00#8 ∧ State.reset.rxFc = 0x00#8 ∧ State.reset.lastCrc = 0x0000#16 ∧ State.reset.crc = 0xFFFF#16 ∧
  State.reset.res = 0x0000#16 ∧ calValid State.reset.flags = false ∧ uncal State.reset.flags = false ∧
  State.reset.txlen = 0#9 ∧ State.reset.rxlen = 0#9 ∧
  (∀ k, State.reset.axf.get k = 0#2 ∧ State.reset.calmax.get k = 0#16 ∧ State.reset.posOut.get k = 0#32) ∧
  (∀ k, State.reset.posTag.get k = false ∧ State.reset.ratioTag.get k = false) ∧ ∀ j, State.reset.dw.read j = none

/-- Reset, asserted between commands from any state, puts every register at its reset value and clears every written tag (R131),
and keeps P_NORESP (R133). That a reset arrives as an input, and keeps the inputs still to come and the command index, is the
model's choice (log 3). -/
def Obligations.ResetRestoresEveryRegister : Prop :=
  ∀ (s : State) (rest : List HostInput), s.pending = .reset :: rest →
    ∃ t, step s = .next t ∧
      t = { State.reset with noresp := s.noresp, pending := rest, cmdIndex := s.cmdIndex, resets := s.resets + 1 }

/-! ### Operands, errors and completion -/

/-- R57: a command whose operand is out of range executes and fails with INVALID_ARGUMENT, changing STATUS only; a word with
wrong fixed bits fails with ILLEGAL_COMMAND whatever its operand values. The ranges are those of `wellFormed`: R57's list with the
count of DEC_RESP (R91) and the address that must fit 16 bits (R97, R98), which that list leaves out (log 13). No command in range
ends with INVALID_ARGUMENT (R114). -/
def Obligations.OutOfRangeOperandFails : Prop :=
  (∀ (i : Instr) (s : State), i.wellFormed = false → exec i s = .next { s with status := 0x02#8 }) ∧
  (∀ (i : Instr) (s t : State), i.wellFormed = true → exec i s = .next t → t.status ≠ 0x02#8) ∧
  ∀ (w : CommandWord) (s : State), ¬ InTable w → execWord w s = .next { s with status := 0x01#8 }

/-- R114: each command ends with one of the STATUS codes of its row, never with another. -/
def Obligations.StatusCodesOfEachCommand : Prop :=
  ∀ (i : Instr) (s t : State), exec i s = .next t → t.status ∈ statusesOf i.opcode

/-- R116: a command that fails changes STATUS and the detail registers its rule names, and nothing else. That it does write those
registers is said by the statements about CRC_CHECK and DEC_RESP. -/
def Obligations.FailureChangesOnlyDetails : Prop :=
  ∀ (i : Instr) (s t : State), exec i s = .next t → t.status ≠ 0x00#8 → FailureKeeps i.opcode s t

/-- The machine: every command completes, from every state and with every operand, and so does every step (R145). A command that
reads a word never written goes on with that word's free value (log 6, log 7, log 8; CAL_LOAD log 11), where R33 has the model
fault (log 15). With its operands staged (R135), and in a state with the invariant, a command reads no free value: free values
depend on the reset counter only (log 4), and its outcome is the same for every counter. The guard: `execGuarded` is R33's model
fault (R118, U2). Exactly where the operands are not staged it faults, by the file read; elsewhere it answers what the machine
does. -/
def Obligations.EveryCommandCompletes : Prop :=
  (∀ (i : Instr) (s : State), ∃ t, exec i s = .next t) ∧
  (∀ s : State, ∃ t, step s = .next t) ∧
  (∀ (i : Instr) (s : State) (r : Nat), s.Inv → Staged i s →
    exec i { s with resets := r } = mapNext (fun t => { t with resets := r }) (exec i s)) ∧
  (∀ (i : Instr) (s t : State), Staged i s → exec i s = .next t → execGuarded i s = .next t) ∧
  ∀ (i : Instr) (s : State), ¬ Staged i s →
    execGuarded i s =
      .fault (if i = .clamp then .position else if i = .clampRatio then .ratio else .dataWord)

/-! ### The checksum -/

/-- R63 and R64: the checksum is the algorithm of the rules, on numbers. -/
def Obligations.ChecksumFollowsAlgorithm : Prop :=
  (∀ (c : Half) (b : Byte), (crcStep c b).toNat = foldByte c.toNat b.toNat) ∧
  crc16 [] = 0xFFFF#16 ∧
  ∀ (l : List Byte) (b : Byte), crc16 (l ++ [b]) = crcStep (crc16 l) b

/-- R65. -/
def Obligations.CrcInitResetsAccumulator : Prop :=
  EncodedAs 0x01#8 0xFFFFFFFFFFFFFFFF#64 (fun _ => .crcInit) ∧
  ∀ s, exec .crcInit s = .next { s with crc := 0xFFFF#16, status := 0x00#8 }

/-- R66, with the streaming property: from 0xFFFF, the bytes of a sequence fed one at a time leave its checksum in CRC. -/
def Obligations.CrcByteFoldsOneByte : Prop :=
  EncodedAs 0x02#8 0xFF00FFFFFFFFFFFF#64 (fun w => .crcByte (w.extractLsb' 48 8)) ∧
  (∀ b s, ∃ t, exec (.crcByte b) s = .next t ∧ t.crc.toNat = foldByte s.crc.toNat b.toNat ∧
    t = { s with crc := t.crc, status := 0x00#8 }) ∧
  (∀ (l : List Byte) (s : State), ∃ t, execAll (.crcInit :: l.map .crcByte) s = .next t ∧
    t = { s with crc := crc16 l, status := 0x00#8 }) ∧
  crcStep 0xFFFF 0x00 = 0x40BF ∧ crcStep 0x0000 0x00 = 0x0000 ∧ crcStep 0xFFFF 0x01 = 0x807E

/-- R67. -/
def Obligations.CrcCheckValidatesFrame : Prop :=
  EncodedAs 0x03#8 0xFFFFFFFFFFFFFFFF#64 (fun _ => .crcCheck) ∧
  ∀ s : State,
    (s.rxlen.toNat < 5 → exec .crcCheck s = .next { s with status := 0x03#8 }) ∧
    (5 ≤ s.rxlen.toNat → calcCrc s ≠ recvCrc s → exec .crcCheck s = .next { s with lastCrc := calcCrc s, status := 0x04#8 }) ∧
    (5 ≤ s.rxlen.toNat → calcCrc s = recvCrc s → exec .crcCheck s = .next { s with lastCrc := calcCrc s, status := 0x00#8 })

/-- R68: one flipped bit in one of the two checksum bytes of a frame that passed CRC_CHECK makes CRC_CHECK and DEC_RESP fail
with CHECKSUM_MISMATCH; the computed checksum is the same. -/
def Obligations.FlippedChecksumBitIsCaught : Prop :=
  ∀ (s : State) (i bit : Nat) (fe : Byte) (cnt : Half),
    exec .crcCheck s = .next { s with lastCrc := calcCrc s, status := 0x00#8 } →
    5 ≤ s.rxlen.toNat → (i = s.rxlen.toNat - 2 ∨ i = s.rxlen.toNat - 1) → bit < 8 → ExpectOk fe cnt →
    ∀ u, u = { s with rxbuf := s.rxbuf.write i (rxByte s i ^^^ (1#8 <<< bit)) } →
      exec .crcCheck u = .next { u with lastCrc := calcCrc s, status := 0x04#8 } ∧
      exec (.decResp fe cnt) u = .next { u with lastCrc := calcCrc s, rkind := 0#8, rcount := 0#8, status := 0x04#8 }

/-- R16: only CRC_INIT and CRC_BYTE write the accumulator, and no other command reads it: whatever it holds, every other command
does the same and leaves it as it is. -/
def Obligations.OnlyStreamingCommandsUseCrc : Prop :=
  State.reset.crc = 0xFFFF#16 ∧
  ∀ (i : Instr) (s : State) (c : Half), i.opcode ≠ .crcInit → i.opcode ≠ .crcByte →
    exec i { s with crc := c } = mapNext (fun t => { t with crc := c }) (exec i s)

/-! ### Buffers and data words -/

/-- R71. -/
def Obligations.RxClearEmptiesBuffer : Prop :=
  EncodedAs 0x10#8 0xFFFFFFFFFFFFFFFF#64 (fun _ => .rxClear) ∧
  ∀ s, exec .rxClear s = .next { s with rxlen := 0#9, status := 0x00#8 }

/-- R72. -/
def Obligations.RxPushAppendsByte : Prop :=
  EncodedAs 0x11#8 0xFF00FFFFFFFFFFFF#64 (fun w => .rxPush (w.extractLsb' 48 8)) ∧
  ∀ (b : Byte) (s : State),
    (s.rxlen.toNat = 256 → exec (.rxPush b) s = .next { s with status := 0x0A#8 }) ∧
    (s.rxlen.toNat < 256 →
      ∃ t, exec (.rxPush b) s = .next t ∧ t.rxlen.toNat = s.rxlen.toNat + 1 ∧
        t.rxbuf.read s.rxlen.toNat = some b ∧ (∀ j, j ≠ s.rxlen.toNat → t.rxbuf.read j = s.rxbuf.read j) ∧
        t = { s with rxbuf := t.rxbuf, rxlen := t.rxlen, status := 0x00#8 })

/-- R73: the word, with its written tag, is written; every other word keeps its value and tag. -/
def Obligations.DwWriteStoresWord : Prop :=
  EncodedAs 0x12#8 0xFF00FFFF0000FFFF#64 (fun w => .dwWrite (w.extractLsb' 48 8) (w.extractLsb' 16 16)) ∧
  ∀ (index : Byte) (value : Half) (s : State),
    (124 < index.toNat → exec (.dwWrite index value) s = .next { s with status := 0x02#8 }) ∧
    (index.toNat ≤ 124 →
      ∃ t, exec (.dwWrite index value) s = .next t ∧ t.dw.read index.toNat = some value ∧
        (∀ j, j ≠ index.toNat → t.dw.read j = s.dw.read j) ∧ t = { s with dw := t.dw, status := 0x00#8 })

/-- RXBUF at or above RXLEN is never read, and only RX_PUSH writes RXBUF: two receive buffers that agree below RXLEN give every
other command the same result (R18). -/
def Obligations.BytesAboveRxlenAreNeverRead : Prop :=
  ∀ (i : Instr) (s : State) (m : Mem 8), i.opcode ≠ .rxPush →
    (∀ j, j < s.rxlen.toNat → m.read j = s.rxbuf.read j) →
    exec i { s with rxbuf := m } = mapNext (fun t => { t with rxbuf := m }) (exec i s)

/-! ### The encoder -/

/-- R77. -/
def Obligations.EncReadBuildsRequest : Prop :=
  EncodedAs 0x20#8 0xFF0000000000FFFF#64
    (fun w => .encRead (w.extractLsb' 48 8) (w.extractLsb' 32 16) (w.extractLsb' 16 16)) ∧
  ∀ (unit : Byte) (address count : Half) (s : State),
    (unit = 0#8 ∨ count.toNat < 1 ∨ 125 < count.toNat →
      exec (.encRead unit address count) s = .next { s with status := 0x02#8 }) ∧
    (unit ≠ 0#8 → 1 ≤ count.toNat → count.toNat ≤ 125 →
      BuildsFrame (.encRead unit address count) s [unit, 0x03#8, hi address, lo address, hi count, lo count])

/-- R78. -/
def Obligations.EncWrite1BuildsRequest : Prop :=
  EncodedAs 0x21#8 0xFF0000000000FFFF#64
    (fun w => .encWrite1 (w.extractLsb' 48 8) (w.extractLsb' 32 16) (w.extractLsb' 16 16)) ∧
  ∀ (unit : Byte) (address value : Half) (s : State),
    (unit = 0#8 → exec (.encWrite1 unit address value) s = .next { s with status := 0x02#8 }) ∧
    (unit ≠ 0#8 →
      BuildsFrame (.encWrite1 unit address value) s [unit, 0x06#8, hi address, lo address, hi value, lo value])

/-- R79: the values are DW[0..n-1]. Where R79 has the model fault on a word never written, the frame holds that word's free value
(log 6, log 15). -/
def Obligations.EncWriteNBuildsRequest : Prop :=
  EncodedAs 0x22#8 0xFF0000000000FFFF#64
    (fun w => .encWriteN (w.extractLsb' 48 8) (w.extractLsb' 32 16) (w.extractLsb' 16 16)) ∧
  ∀ (unit : Byte) (address count : Half) (s : State),
    (unit = 0#8 ∨ count.toNat < 1 ∨ 123 < count.toNat →
      exec (.encWriteN unit address count) s = .next { s with status := 0x02#8 }) ∧
    (unit ≠ 0#8 → 1 ≤ count.toNat → count.toNat ≤ 123 →
      ∀ values : List Half, values.length = count.toNat →
        (∀ j (h : j < values.length), values[j] = dwWord s j) →
        BuildsFrame (.encWriteN unit address count) s
          ([unit, 0x10#8, hi address, lo address, hi count, lo count, BitVec.ofNat 8 (2 * count.toNat)] ++
            values.flatMap fun v => [hi v, lo v]))

/-- R81 with the lengths of R80 and the checksum of R69: TXBUF holds no frame or a valid one, and every step keeps it so. -/
def Obligations.StepKeepsTransmitFrameValid : Prop :=
  ∀ s t : State, s.TxFrameValid → step s = .next t → t.TxFrameValid

/-! ### The decoder -/

/-- R91: operands outside their range write STATUS only; for 0x06 and 0x10, W is ignored. -/
def Obligations.DecRespChecksOperands : Prop :=
  EncodedAs 0x30#8 0xFF00FFFF0000FFFF#64 (fun w => .decResp (w.extractLsb' 48 8) (w.extractLsb' 16 16)) ∧
  (∀ (fe : Byte) (cnt : Half) (s : State), ¬ ExpectOk fe cnt → exec (.decResp fe cnt) s = .next { s with status := 0x02#8 }) ∧
  ∀ (fe : Byte) (cnt cnt' : Half) (s : State), fe = 0x06#8 ∨ fe = 0x10#8 →
    exec (.decResp fe cnt) s = exec (.decResp fe cnt') s

/-- R84. -/
def Obligations.DecRespRejectsShortFrame : Prop :=
  ∀ (fe : Byte) (cnt : Half) (s : State), ExpectOk fe cnt → s.rxlen.toNat < 5 →
    exec (.decResp fe cnt) s = .next { s with rkind := 0#8, rcount := 0#8, status := 0x03#8 }

/-- R85: the checksum is checked before the function code is looked at. -/
def Obligations.DecRespRejectsBadChecksum : Prop :=
  ∀ (fe : Byte) (cnt : Half) (s : State), ExpectOk fe cnt → 5 ≤ s.rxlen.toNat → calcCrc s ≠ recvCrc s →
    exec (.decResp fe cnt) s = .next { s with lastCrc := calcCrc s, rkind := 0#8, rcount := 0#8, status := 0x04#8 }

/-- R86: exactly one exception encoding is recognised for each expected code, and any other code fails. -/
def Obligations.DecRespRejectsUnexpectedCode : Prop :=
  ∀ (fe : Byte) (cnt : Half) (s : State), ExpectOk fe cnt → FrameGood s →
    rxByte s 1 ≠ fe → rxByte s 1 ≠ BitVec.ofNat 8 (fe.toNat + 0x80) →
    exec (.decResp fe cnt) s = .next { received s with rkind := 0#8, rcount := 0#8, status := 0x05#8 }

/-- R87: an exception response records its code; it succeeds exactly when P_NORESP is that code. -/
def Obligations.DecRespTakesException : Prop :=
  ∀ (fe : Byte) (cnt : Half) (s : State), ExpectOk fe cnt → FrameGood s → rxByte s 1 = BitVec.ofNat 8 (fe.toNat + 0x80) →
    (s.noresp = some (rxByte s 2) →
      exec (.decResp fe cnt) s =
        .next { received s with excCode := rxByte s 2, rkind := 3#8, rcount := 0#8, status := 0x00#8 }) ∧
    (s.noresp ≠ some (rxByte s 2) →
      exec (.decResp fe cnt) s =
        .next { received s with excCode := rxByte s 2, rkind := 0#8, rcount := 0#8, status := 0x06#8 })

/-- R88: a write response is a success marker with no data, whatever its content and length. -/
def Obligations.DecRespAcceptsWriteResponse : Prop :=
  ∀ (fe : Byte) (cnt : Half) (s : State), fe = 0x06#8 ∨ fe = 0x10#8 → FrameGood s → rxByte s 1 = fe →
    exec (.decResp fe cnt) s = .next { received s with rkind := 2#8, rcount := 0#8, status := 0x00#8 }

/-- R89: a ReadRegisters response must hold exactly 2·cnt data bytes, whatever its count prefix; its values go to DW[0..cnt-1],
high byte first, and the other words of DW stay. -/
def Obligations.DecRespReturnsRegisters : Prop :=
  ∀ (cnt : Half) (s : State), 1 ≤ cnt.toNat → cnt.toNat ≤ 125 → FrameGood s → rxByte s 1 = 0x03#8 →
    (s.rxlen.toNat ≠ 5 + 2 * cnt.toNat →
      exec (.decResp 0x03 cnt) s = .next { received s with rkind := 0#8, rcount := 0#8, status := 0x07#8 }) ∧
    (s.rxlen.toNat = 5 + 2 * cnt.toNat →
      ∃ t, exec (.decResp 0x03 cnt) s = .next t ∧
        (∀ j, j < cnt.toNat → t.dw.read j =
          some (BitVec.ofNat 16 ((rxByte s (3 + 2 * j)).toNat * 256 + (rxByte s (4 + 2 * j)).toNat))) ∧
        (∀ j, cnt.toNat ≤ j → t.dw.read j = s.dw.read j) ∧ t.rcount.toNat = cnt.toNat ∧
        t = { received s with dw := t.dw, rkind := 1#8, rcount := t.rcount, status := 0x00#8 })

/-- R82: a ReadRegisters request encoded for n registers, then a response with n values and a matching checksum loaded into
RXBUF, then DEC_RESP: the values are in DW and STATUS is OK, from every state. -/
def Obligations.ReadRegistersRoundTrip : Prop :=
  ∀ (unit countByte : Byte) (address : Half) (values : List Half) (s : State),
    unit ≠ 0#8 → 1 ≤ values.length → values.length ≤ 125 →
    ∀ body, body = [unit, 0x03#8, countByte] ++ values.flatMap (fun v => [hi v, lo v]) →
    ∃ t, execAll (.encRead unit address (BitVec.ofNat 16 values.length) :: .rxClear ::
          ((body ++ [lo (crc16 body), hi (crc16 body)]).map .rxPush ++
            [.decResp 0x03 (BitVec.ofNat 16 values.length)])) s = .next t ∧
      t.status = 0x00#8 ∧ t.rkind = 1#8 ∧ t.rcount.toNat = values.length ∧
      ∀ j (h : j < values.length), t.dw.read j = some values[j]

/-! ### Addresses and 2-bit fields -/

/-- R97. -/
def Obligations.AddrLinearAddsAxisSlot : Prop :=
  EncodedAs 0x40#8 0xFF000000FFFFFFFF#64 (fun w => .addrLinear (w.extractLsb' 32 16) (w.extractLsb' 48 8)) ∧
  ∀ (base : Half) (axis : Byte) (s : State),
    (axis.toNat < 1 ∨ 6 < axis.toNat ∨ 0xFFFF < base.toNat + (axis.toNat - 1) →
      exec (.addrLinear base axis) s = .next { s with status := 0x02#8 }) ∧
    (1 ≤ axis.toNat → axis.toNat ≤ 6 → base.toNat + (axis.toNat - 1) ≤ 0xFFFF →
      ∃ t, exec (.addrLinear base axis) s = .next t ∧ t.res.toNat = base.toNat + (axis.toNat - 1) ∧
        t = { s with res := t.res, status := 0x00#8 })

/-- R98. -/
def Obligations.AddrForceAddsSixteenPerSlot : Prop :=
  EncodedAs 0x41#8 0xFF000000FFFFFFFF#64 (fun w => .addrForce (w.extractLsb' 32 16) (w.extractLsb' 48 8)) ∧
  ∀ (base : Half) (axis : Byte) (s : State),
    (axis.toNat < 1 ∨ 6 < axis.toNat ∨ 0xFFFF < base.toNat + (axis.toNat - 1) * 16 →
      exec (.addrForce base axis) s = .next { s with status := 0x02#8 }) ∧
    (1 ≤ axis.toNat → axis.toNat ≤ 6 → base.toNat + (axis.toNat - 1) * 16 ≤ 0xFFFF →
      ∃ t, exec (.addrForce base axis) s = .next t ∧ t.res.toNat = base.toNat + (axis.toNat - 1) * 16 ∧
        t = { s with res := t.res, status := 0x00#8 })

/-- R99: the mode in each of the six slots, so RES = mode · 0x555; bits [15:12] are 0. -/
def Obligations.PackUniformFillsSixSlots : Prop :=
  EncodedAs 0x42#8 0xFFFFFFFFFFFFFFFC#64 (fun w => .packUniform (w.extractLsb' 0 2)) ∧
  ∀ (mode : BitVec 2) (s : State),
    ∃ t, exec (.packUniform mode) s = .next t ∧ t.res.toNat = mode.toNat * 0x555 ∧
      t = { s with res := t.res, status := 0x00#8 }

/-- R100: the mode in the axis's slot and 0 in every other. -/
def Obligations.PackAxisFillsOneSlot : Prop :=
  EncodedAs 0x43#8 0xFF00FFFFFFFFFFFC#64 (fun w => .packAxis (w.extractLsb' 48 8) (w.extractLsb' 0 2)) ∧
  ∀ (axis : Byte) (mode : BitVec 2) (s : State),
    (axis.toNat < 1 ∨ 6 < axis.toNat → exec (.packAxis axis mode) s = .next { s with status := 0x02#8 }) ∧
    (1 ≤ axis.toNat → axis.toNat ≤ 6 →
      ∃ t, exec (.packAxis axis mode) s = .next t ∧ t.res.toNat = mode.toNat * 4 ^ (axis.toNat - 1) ∧
        t = { s with res := t.res, status := 0x00#8 })

/-- R101, with its inverse property: UNPACK of a packer's result gives the mode back. -/
def Obligations.UnpackSplitsSixFields : Prop :=
  EncodedAs 0x44#8 0xFFFF0000FFFFFFFF#64 (fun w => .unpack (w.extractLsb' 32 16)) ∧
  (∀ (word : Half) (s : State),
    ∃ t, exec (.unpack word) s = .next t ∧
      (∀ k : Fin 6, (t.axf.get k).toNat = word.toNat / 4 ^ k.val % 4) ∧ t = { s with axf := t.axf, status := 0x00#8 }) ∧
  (∀ (mode : BitVec 2) (s t u : State), exec (.packUniform mode) s = .next t → exec (.unpack t.res) t = .next u →
    ∀ k, u.axf.get k = mode) ∧
  ∀ (axis : Byte) (mode : BitVec 2) (s t u : State), 1 ≤ axis.toNat → axis.toNat ≤ 6 →
    exec (.packAxis axis mode) s = .next t → exec (.unpack t.res) t = .next u →
    ∀ k : Fin 6, u.axf.get k = if k.val + 1 = axis.toNat then mode else 0#2

/-- R102. Where R102 has the model fault on a word never written, the fields are those of that word's free value (log 6,
log 15). -/
def Obligations.UnpackDwSplitsDataWord : Prop :=
  EncodedAs 0x45#8 0xFF00FFFFFFFFFFFF#64 (fun w => .unpackDw (w.extractLsb' 48 8)) ∧
  ∀ (index : Byte) (s : State),
    (124 < index.toNat → exec (.unpackDw index) s = .next { s with status := 0x02#8 }) ∧
    (index.toNat ≤ 124 →
      ∃ t, exec (.unpackDw index) s = .next t ∧
        (∀ k : Fin 6, (t.axf.get k).toNat = (dwWord s index.toNat).toNat / 4 ^ k.val % 4) ∧
        t = { s with axf := t.axf, status := 0x00#8 })

/-! ### Calibration and clamp -/

/-- R103: with RCOUNT = 6 all six maxima are written and CALVALID is set, UNCAL kept; otherwise STATUS only. RCOUNT = 6 with a word
of DW[0..5] never written is reached by no run; there the model's choice is to complete with that word's free value (log 11). -/
def Obligations.CalLoadStoresSixMaxima : Prop :=
  EncodedAs 0x50#8 0xFFFFFFFFFFFFFFFF#64 (fun _ => .calLoad) ∧
  ∀ s : State,
    (s.rcount ≠ 6#8 → exec .calLoad s = .next { s with status := 0x08#8 }) ∧
    (s.rcount = 6#8 →
      ∃ t, exec .calLoad s = .next t ∧ (∀ k : Fin 6, t.calmax.get k = dwWord s k.val) ∧
        t.flags.getLsbD 0 = true ∧ t.flags.getLsbD 1 = s.flags.getLsbD 1 ∧
        t = { s with calmax := t.calmax, flags := t.flags, status := 0x00#8 })

/-- R104. -/
def Obligations.CalClearDropsCalibration : Prop :=
  EncodedAs 0x51#8 0xFFFFFFFFFFFFFFFF#64 (fun _ => .calClear) ∧
  ∀ s : State, ∃ t, exec .calClear s = .next t ∧ t.flags.getLsbD 0 = false ∧ t.flags.getLsbD 1 = s.flags.getLsbD 1 ∧
    t = { s with flags := t.flags, status := 0x00#8 }

/-- R105: the word and its written tag; every other word keeps its value and tag. -/
def Obligations.PosSetStagesPosition : Prop :=
  EncodedAs 0x52#8 0xFF00FFFF00000000#64 (fun w => .posSet (w.extractLsb' 48 8) (w.extractLsb' 0 32)) ∧
  ∀ (axis : Byte) (position : Full) (s : State),
    (axis.toNat < 1 ∨ 6 < axis.toNat → exec (.posSet axis position) s = .next { s with status := 0x02#8 }) ∧
    (1 ≤ axis.toNat → axis.toNat ≤ 6 →
      ∃ t, exec (.posSet axis position) s = .next t ∧
        (∀ k : Fin 6, t.posIn.get k = (if k.val + 1 = axis.toNat then position else s.posIn.get k) ∧
          t.posTag.get k = (if k.val + 1 = axis.toNat then true else s.posTag.get k)) ∧
        t = { s with posIn := t.posIn, posTag := t.posTag, status := 0x00#8 })

/-- R106: the word and its written tag; every other word keeps its value and tag. -/
def Obligations.RatioSetStagesRatio : Prop :=
  EncodedAs 0x53#8 0xFF00FFFF0000FFFF#64 (fun w => .ratioSet (w.extractLsb' 48 8) (w.extractLsb' 16 16)) ∧
  ∀ (axis : Byte) (ratio : Half) (s : State),
    (axis.toNat < 1 ∨ 6 < axis.toNat ∨ 0x8000 < ratio.toNat →
      exec (.ratioSet axis ratio) s = .next { s with status := 0x02#8 }) ∧
    (1 ≤ axis.toNat → axis.toNat ≤ 6 → ratio.toNat ≤ 0x8000 →
      ∃ t, exec (.ratioSet axis ratio) s = .next t ∧
        (∀ k : Fin 6, t.ratio.get k = (if k.val + 1 = axis.toNat then ratio else s.ratio.get k) ∧
          t.ratioTag.get k = (if k.val + 1 = axis.toNat then true else s.ratioTag.get k)) ∧
        t = { s with ratio := t.ratio, ratioTag := t.ratioTag, status := 0x00#8 })

/-- R107: the calibration test, then the ranges. Where R107 has the model fault on a position never written, that position's free
value is bounded or passed through (log 7, log 15). -/
def Obligations.ClampBoundsPositions : Prop :=
  EncodedAs 0x54#8 0xFFFFFFFFFFFFFFFF#64 (fun _ => .clamp) ∧
  ∀ s : State,
    (s.flags.getLsbD 0 = false →
      ∃ t, exec .clamp s = .next t ∧ (∀ k, t.posOut.get k = posWord s k) ∧
        t.flags.getLsbD 1 = true ∧ t.flags.getLsbD 0 = false ∧
        t = { s with posOut := t.posOut, flags := t.flags, status := 0x00#8 }) ∧
    (s.flags.getLsbD 0 = true →
      (∀ k, bound s k < 1 → exec .clamp s = .next { s with status := 0x0B#8 }) ∧
      ((∀ k, 1 ≤ bound s k) →
        ∃ t, exec .clamp s = .next t ∧
          (∀ k, (t.posOut.get k).toInt = bounded (posWord s k).toInt (bound s k)) ∧
          t.flags.getLsbD 1 = false ∧ t.flags.getLsbD 0 = true ∧
          t = { s with posOut := t.posOut, flags := t.flags, status := 0x00#8 }))

/-- R108: the calibration test first, then the ranges; FLAGS is not written. Where R108 has the model fault on a ratio never written,
that ratio's free value is scaled and bounded (log 8, log 15). -/
def Obligations.ClampRatioScalesAndBounds : Prop :=
  EncodedAs 0x55#8 0xFFFFFFFFFFFFFFFF#64 (fun _ => .clampRatio) ∧
  ∀ s : State,
    (s.flags.getLsbD 0 = false → exec .clampRatio s = .next { s with status := 0x09#8 }) ∧
    (s.flags.getLsbD 0 = true →
      (∀ k, bound s k < 1 → exec .clampRatio s = .next { s with status := 0x0B#8 }) ∧
      ((∀ k, 1 ≤ bound s k) →
        ∃ t, exec .clampRatio s = .next t ∧
          (∀ k, (t.posOut.get k).toInt =
            bounded (((ratWord s k).toNat * (s.calmax.get k).toNat / 32768 : Nat) : Int) (bound s k)) ∧
          t = { s with posOut := t.posOut, status := 0x00#8 }))

/-- R109: clampv, and the range of every position that a calibrated CLAMP or CLAMP_RATIO writes: 1..65525, and at most the
axis's maximum less the margin. -/
def Obligations.ClampedPositionsStayInRange : Prop :=
  (∀ p h : Int, 1 ≤ h →
    (p < 1 → clampv p h = 1) ∧ (h < p → clampv p h = h) ∧ (1 ≤ p → p ≤ h → clampv p h = p) ∧
    1 ≤ clampv p h ∧ clampv p h ≤ h) ∧
  ∀ (i : Instr) (s t : State), i = .clamp ∨ i = .clampRatio → s.flags.getLsbD 0 = true →
    exec i s = .next t → t.status = 0x00#8 →
    ∀ k, 1 ≤ (t.posOut.get k).toInt ∧ (t.posOut.get k).toInt ≤ 65525 ∧
      (t.posOut.get k).toInt ≤ ((s.calmax.get k).toNat : Int) - 10

/-- R110: the scale function truncates, its product fits 32 bits, and it never exceeds the maximum. -/
def Obligations.ScaleTruncates : Prop :=
  ∀ r m : Half,
    scale r m * 32768 ≤ r.toNat * m.toNat ∧ r.toNat * m.toNat < (scale r m + 1) * 32768 ∧
    (r.toNat ≤ 0x8000 → r.toNat * m.toNat < 2 ^ 32 ∧ scale r m ≤ m.toNat) ∧ scale 0x8000 m = m.toNat ∧ scale 0 m = 0

/-- R22: CALVALID is set by CAL_LOAD and cleared by CAL_CLEAR only, UNCAL is written by a successful CLAMP only; both are 0 at
reset and the read port shows 0 above them. -/
def Obligations.FlagsHaveTheirWriters : Prop :=
  State.reset.flags = 0b00#2 ∧
  (∀ s : State, (readPort s 0x009).toNat = (if s.flags.getLsbD 0 then 1 else 0) + (if s.flags.getLsbD 1 then 2 else 0)) ∧
  ∀ (i : Instr) (s t : State), exec i s = .next t →
    (i ≠ .calLoad → i ≠ .calClear → t.flags.getLsbD 0 = s.flags.getLsbD 0) ∧
    (i = .calLoad → t.status = 0x00#8 → t.flags.getLsbD 0 = true) ∧
    (i = .calLoad → t.status ≠ 0x00#8 → t.flags = s.flags) ∧
    (i = .calClear → t.flags.getLsbD 0 = false) ∧
    (i ≠ .clamp → t.flags.getLsbD 1 = s.flags.getLsbD 1) ∧
    (i = .clamp → t.status = 0x00#8 → t.flags.getLsbD 1 = !(s.flags.getLsbD 0)) ∧
    (i = .clamp → t.status ≠ 0x00#8 → t.flags = s.flags)

/-- R21: only CAL_LOAD writes CALMAX, and no other command reads it while CALVALID is 0: whatever it holds, every other command
then does the same and leaves it as it is; CAL_LOAD itself never reads it. -/
def Obligations.UncalibratedMaximaAreNeverRead : Prop :=
  (∀ k, State.reset.calmax.get k = 0x0000#16) ∧
  (∀ (i : Instr) (s t : State), i ≠ .calLoad → exec i s = .next t → t.calmax = s.calmax) ∧
  (∀ (i : Instr) (s : State) (c : Axes Half), i ≠ .calLoad → s.flags.getLsbD 0 = false →
    exec i { s with calmax := c } = mapNext (fun t => { t with calmax := c }) (exec i s)) ∧
  ∀ (s : State) (c : Axes Half), s.rcount = 6#8 → exec .calLoad { s with calmax := c } = exec .calLoad s

/-! ### The read port and rules over all commands -/

/-- R15: the read-port map. Words of POS_IN and RATIO are stated where their written tag is set, bytes and words of the arrays
where they have been written. -/
def Obligations.ReadPortMap : Prop :=
  ∀ s : State,
    readPort s 0x000 = s.status.setWidth 32 ∧ readPort s 0x001 = s.rkind.setWidth 32 ∧
    readPort s 0x002 = s.rcount.setWidth 32 ∧ readPort s 0x003 = s.excCode.setWidth 32 ∧
    readPort s 0x004 = s.rxUnit.setWidth 32 ∧ readPort s 0x005 = s.rxFc.setWidth 32 ∧
    readPort s 0x006 = s.lastCrc.setWidth 32 ∧ readPort s 0x007 = s.crc.setWidth 32 ∧
    readPort s 0x008 = s.res.setWidth 32 ∧ readPort s 0x009 = s.flags.setWidth 32 ∧
    readPort s 0x00A = s.txlen.setWidth 32 ∧ readPort s 0x00B = s.rxlen.setWidth 32 ∧
    (∀ k : Fin 6,
      readPort s (BitVec.ofNat 12 (0x011 + k.val)) = (s.axf.get k).setWidth 32 ∧
      readPort s (BitVec.ofNat 12 (0x021 + k.val)) = (s.calmax.get k).setWidth 32 ∧
      (s.posTag.get k = true → readPort s (BitVec.ofNat 12 (0x031 + k.val)) = s.posIn.get k) ∧
      readPort s (BitVec.ofNat 12 (0x041 + k.val)) = s.posOut.get k ∧
      (s.ratioTag.get k = true → readPort s (BitVec.ofNat 12 (0x051 + k.val)) = (s.ratio.get k).setWidth 32)) ∧
    (∀ (i : Nat) (v : Half), i ≤ 124 → s.dw.read i = some v → readPort s (BitVec.ofNat 12 (0x100 + i)) = v.setWidth 32) ∧
    (∀ (i : Nat) (v : Byte), i ≤ 255 → s.txbuf.read i = some v → readPort s (BitVec.ofNat 12 (0x200 + i)) = v.setWidth 32) ∧
    (∀ (i : Nat) (v : Byte), i ≤ 255 → s.rxbuf.read i = some v → readPort s (BitVec.ofNat 12 (0x300 + i)) = v.setWidth 32) ∧
    ∀ a : BitVec 12,
      ((0x00C ≤ a.toNat ∧ a.toNat ≤ 0x010) ∨ (0x017 ≤ a.toNat ∧ a.toNat ≤ 0x020) ∨ (0x027 ≤ a.toNat ∧ a.toNat ≤ 0x030) ∨
        (0x037 ≤ a.toNat ∧ a.toNat ≤ 0x040) ∨ (0x047 ≤ a.toNat ∧ a.toNat ≤ 0x050) ∨ (0x057 ≤ a.toNat ∧ a.toNat ≤ 0x0FF) ∨
        (0x17D ≤ a.toNat ∧ a.toNat ≤ 0x1FF) ∨ 0x400 ≤ a.toNat) →
      readPort s a = 0x00000000#32

/-- The frame of every command, as the host sees it: each read-port address that R41 does not list for the command reads as
before, and so do the written tags, P_NORESP, the command index and the inputs to come. For a word or byte never written, which U1
and U2 let read as any value, that two reads agree is the model's choice (log 4, log 6, log 7, log 8). -/
def Obligations.CommandWritesOnlyItsRegisters : Prop :=
  ∀ (i : Instr) (s t : State), exec i s = .next t →
    (∀ a : BitVec 12, ¬ Writes i s a.toNat → readPort t a = readPort s a) ∧
    (∀ k : Fin 6, ¬ Writes i s (0x031 + k.val) → t.posTag.get k = s.posTag.get k) ∧
    (∀ k : Fin 6, ¬ Writes i s (0x051 + k.val) → t.ratioTag.get k = s.ratioTag.get k) ∧
    (∀ j, j ≤ 124 → ¬ Writes i s (0x100 + j) → t.dw.read j = s.dw.read j) ∧
    t.noresp = s.noresp ∧ t.cmdIndex = s.cmdIndex ∧ t.pending = s.pending ∧ t.resets = s.resets

/-- R43: every command but CRC_BYTE and RX_PUSH gives the same state again when it is repeated, those two do not, and no
command but RX_CLEAR and RX_PUSH changes RXBUF or RXLEN. For ENC_WRITEN, UNPACK_DW, CLAMP and CLAMP_RATIO on words never written,
which the spec lets read as any value each time (U2), the same state again is the model's choice that a free value is the same at
every read (log 6, log 7, log 8). -/
def Obligations.RepeatedCommandsChangeNothing : Prop :=
  (∀ (i : Instr) (s t : State), s.Inv → i.opcode ≠ .crcByte → i.opcode ≠ .rxPush → exec i s = .next t →
    exec i t = .next t) ∧
  (∃ (b : Byte) (s t : State), s.Inv ∧ exec (.crcByte b) s = .next t ∧ exec (.crcByte b) t ≠ .next t) ∧
  (∃ (b : Byte) (s t : State), s.Inv ∧ exec (.rxPush b) s = .next t ∧ exec (.rxPush b) t ≠ .next t) ∧
  ∀ (i : Instr) (s t : State), i.opcode ≠ .rxClear → i.opcode ≠ .rxPush → exec i s = .next t →
    t.rxbuf = s.rxbuf ∧ t.rxlen = s.rxlen

/-- What a word of POS_IN or RATIO holds while its written tag is clear is never seen: neither the read port nor any step
depends on it, so the model's choice of a value there (log 7, log 8) decides nothing (R33, U2). -/
def Obligations.UnwrittenOperandsAreNeverSeen : Prop :=
  ∀ s u : State, SameButUnwritten s u → (∀ a, readPort u a = readPort s a) ∧ SameOutcome (step s) (step u)

/-- The ranges and relations of the registers (`State.Inv`: R9 and R114 for STATUS, R10, R11 and R90 for RKIND and RCOUNT, R17, R18,
R25 for the RATIO words that have been written, R27, R33) are kept by every step from every state that has them. -/
def Obligations.StepKeepsInvariant : Prop := ∀ s t : State, s.Inv → step s = .next t → t.Inv

/-- The reset state has the invariant and holds no frame. -/
def Obligations.ResetHasInvariant : Prop := State.reset.Inv ∧ State.reset.TxFrameValid

/-! ### The assembler and the pseudo-commands -/

/-- Every command is assembled from its operands in the order of R59, and only into its own mnemonic. -/
def Obligations.AssemblerAcceptsEveryCommand : Prop :=
  (∀ i : Instr, assemble i.opcode (operandsOf i) = some i) ∧
  (∀ (op : Opcode) (operands : List Int) (i : Instr), assemble op operands = some i →
    i.opcode = op ∧ (operands = operandsOf i ∨ (op = .decResp ∧ (operands = [0x06] ∨ operands = [0x10]) ∧ operands ++ [0] = operandsOf i)))

/-- ENC_WRITEN_LIST (R60): from any state it stages its values and builds their frame. -/
def Obligations.EncWriteNListBuildsFrame : Prop :=
  ∀ (unit : Byte) (address : Half) (values : List Half) (s : State),
    unit ≠ 0#8 → 1 ≤ values.length → values.length ≤ 123 →
    ∃ commands t, expand (.encWriteNList unit address values) = some commands ∧ execAll commands s = .next t ∧
      t.status = 0x00#8 ∧ t.txlen.toNat = 9 + 2 * values.length ∧
      (∀ j (h : j < values.length), t.dw.read j = some values[j]) ∧
      ∀ body, body = [unit, 0x10#8, hi address, lo address, 0x00#8, BitVec.ofNat 8 values.length,
          BitVec.ofNat 8 (2 * values.length)] ++ values.flatMap (fun v => [hi v, lo v]) →
        txRead t 0 (9 + 2 * values.length) = body ++ [lo (crc16 body), hi (crc16 body)]
end

