-- ==== Sys2Proof/Laws/Decode.lean ====
section
/-! SUPPORT. The laws of the encoder and the decoder: each field of an encoded word, the fixed bits of each format, and what a
word that decodes must satisfy. -/

-- One declaration after another: the package as one text holds too many proofs to elaborate them side by side.
set_option Elab.async false

namespace Sys2Proof

/-! ### The fields of an encoded word (R51, R61) -/

@[simp] theorem opField_wordOf (op : Opcode) (a : Byte) (h w l : Half) : opField (wordOf op a h w l) = op.code := by
  ext i hi
  interval_cases i <;> simp [opField, wordOf]

@[simp] theorem aField_wordOf (op : Opcode) (a : Byte) (h w l : Half) : aField (wordOf op a h w l) = a := by
  ext i hi
  interval_cases i <;> simp [aField, wordOf]

@[simp] theorem hField_wordOf (op : Opcode) (a : Byte) (h w l : Half) : hField (wordOf op a h w l) = h := by
  ext i hi
  interval_cases i <;> simp [hField, wordOf]

@[simp] theorem wField_wordOf (op : Opcode) (a : Byte) (h w l : Half) : wField (wordOf op a h w l) = w := by
  ext i hi
  interval_cases i <;> simp [wField, wordOf]

@[simp] theorem modeField_wordOf (op : Opcode) (a : Byte) (h w : Half) (mode : BitVec 2) :
    modeField (wordOf op a h w (mode.setWidth 16)) = mode := by
  ext i hi
  interval_cases i <;> simp [modeField, wordOf]

@[simp] theorem opField_wordOfV32 (op : Opcode) (a : Byte) (v : Full) : opField (wordOfV32 op a v) = op.code := by
  ext i hi
  interval_cases i <;> simp [opField, wordOfV32]

@[simp] theorem aField_wordOfV32 (op : Opcode) (a : Byte) (v : Full) : aField (wordOfV32 op a v) = a := by
  ext i hi
  interval_cases i <;> simp [aField, wordOfV32]

@[simp] theorem v32Field_wordOfV32 (op : Opcode) (a : Byte) (v : Full) : v32Field (wordOfV32 op a v) = v := by
  ext i hi
  interval_cases i <;> simp [v32Field, wordOfV32]

@[simp] theorem lField_wordOf (op : Opcode) (a : Byte) (h w l : Half) : lField (wordOf op a h w l) = l := by
  ext i hi
  interval_cases i <;> simp [lField, wordOf]

/-! ### Words by their fields (R51) -/

theorem getLsbD_of_fields (w : CommandWord) (i : Nat) :
    w.getLsbD i =
      if i < 16 then (lField w).getLsbD i else if i < 32 then (wField w).getLsbD (i - 16)
      else if i < 48 then (hField w).getLsbD (i - 32) else if i < 56 then (aField w).getLsbD (i - 48)
      else (opField w).getLsbD (i - 56) := by
  simp only [lField, wField, hField, aField, opField, BitVec.getLsbD_extractLsb']
  split
  · simp [*]
  · split
    · rw [show 16 + (i - 16) = i by omega]
      simp [show i - 16 < 16 by omega]
    · split
      · rw [show 32 + (i - 32) = i by omega]
        simp [show i - 32 < 16 by omega]
      · split
        · rw [show 48 + (i - 48) = i by omega]
          simp [show i - 48 < 8 by omega]
        · rw [show 56 + (i - 56) = i by omega]
          by_cases h : i < 64
          · simp [show i - 56 < 8 by omega]
          · rw [BitVec.getLsbD_of_ge w i (by omega)]
            simp

/-- Two words with the same five fields are equal. -/
theorem eq_of_fields {v w : CommandWord} (ho : opField v = opField w) (ha : aField v = aField w) (hh : hField v = hField w)
    (hw : wField v = wField w) (hl : lField v = lField w) : v = w := by
  apply BitVec.eq_of_getLsbD_eq
  intro i _
  rw [getLsbD_of_fields v, getLsbD_of_fields w, ho, ha, hh, hw, hl]

@[simp] theorem opField_and (v w : CommandWord) : opField (v &&& w) = opField v &&& opField w := BitVec.extractLsb'_and
@[simp] theorem aField_and (v w : CommandWord) : aField (v &&& w) = aField v &&& aField w := BitVec.extractLsb'_and
@[simp] theorem hField_and (v w : CommandWord) : hField (v &&& w) = hField v &&& hField w := BitVec.extractLsb'_and
@[simp] theorem wField_and (v w : CommandWord) : wField (v &&& w) = wField v &&& wField w := BitVec.extractLsb'_and
@[simp] theorem lField_and (v w : CommandWord) : lField (v &&& w) = lField v &&& lField w := BitVec.extractLsb'_and

/-- The word with an opcode and no operand. -/
theorem wordOf_zero (op : Opcode) : wordOf op 0 0 0 0 = op.matchWord := by cases op <;> rfl

/-- A word's fixed bits, field by field: `m` is the mask with 0xFF over the opcode. -/
theorem and_mask_eq {v m : CommandWord} {op : Opcode} :
    v &&& m = op.matchWord ↔
      opField v &&& opField m = op.code ∧ aField v &&& aField m = 0 ∧ hField v &&& hField m = 0 ∧
        wField v &&& wField m = 0 ∧ lField v &&& lField m = 0 := by
  rw [← wordOf_zero]
  constructor
  · intro h
    have h1 := congrArg opField h
    have h2 := congrArg aField h
    have h3 := congrArg hField h
    have h4 := congrArg wField h
    have h5 := congrArg lField h
    simp only [opField_and, aField_and, hField_and, wField_and, lField_and, opField_wordOf, aField_wordOf, hField_wordOf,
      wField_wordOf, lField_wordOf] at h1 h2 h3 h4 h5
    exact ⟨h1, h2, h3, h4, h5⟩
  · rintro ⟨h1, h2, h3, h4, h5⟩
    apply eq_of_fields <;> simp [h1, h2, h3, h4, h5]

/-! ### The fixed bits of each format (R52) -/

/-- What a format requires of a word: the opcode, and 0 in every reserved field. -/
theorem fixedBits_iff (fmt : Format) (op : Opcode) (v : CommandWord) :
    v &&& fmt.mask = op.matchWord ↔
      opField v = op.code ∧
      match fmt with
      | .n => aField v = 0 ∧ hField v = 0 ∧ wField v = 0 ∧ lField v = 0
      | .b => hField v = 0 ∧ wField v = 0 ∧ lField v = 0
      | .f => lField v = 0
      | .d => hField v = 0 ∧ lField v = 0
      | .i => hField v = 0 ∧ lField v = 0
      | .g => wField v = 0 ∧ lField v = 0
      | .mu => aField v = 0 ∧ hField v = 0 ∧ wField v = 0 ∧ lField v &&& 0xFFFC#16 = 0
      | .ma => hField v = 0 ∧ wField v = 0 ∧ lField v &&& 0xFFFC#16 = 0
      | .u => aField v = 0 ∧ wField v = 0 ∧ lField v = 0
      | .x => hField v = 0 ∧ wField v = 0 ∧ lField v = 0
      | .p => hField v = 0 := by
  have ones8 : ∀ x : Byte, x &&& 0xFF#8 = x := fun x => BitVec.and_allOnes (x := x)
  have ones16 : ∀ x : Half, x &&& 0xFFFF#16 = x := fun x => BitVec.and_allOnes (x := x)
  have zero8 : ∀ x : Byte, x &&& 0x00#8 = 0 := fun x => BitVec.and_zero
  have zero16 : ∀ x : Half, x &&& 0x0000#16 = 0 := fun x => BitVec.and_zero
  rw [and_mask_eq]
  cases fmt <;>
    simp only [Format.mask, opField, aField, hField, wField, lField, BitVec.reduceExtractLsb', ones8, ones16, zero8, zero16,
      true_and, and_true]

/-- The mode field leaves no bit outside L[1:0]. -/
theorem mode_and_reserved (mode : BitVec 2) : mode.setWidth 16 &&& 0xFFFC#16 = 0 := by
  revert mode
  decide

/-- The fields of a POS_SET word above V32. -/
@[simp] theorem hField_wordOfV32 (op : Opcode) (a : Byte) (v : Full) : hField (wordOfV32 op a v) = 0 := by
  ext i hi
  interval_cases i <;> simp [hField, wordOfV32]

variable (op : Opcode)

/-! ### Opcode lookup (R54) -/

@[simp] theorem opcodeOfCode?_code : opcodeOfCode? op.code = some op := by cases op <;> decide

theorem code_of_opcodeOfCode? {b : Byte} {op : Opcode} (hb : opcodeOfCode? b = some op) : op.code = b := by
  simpa using List.find?_some hb

theorem opcodeOfCode?_eq_some {b : Byte} {op : Opcode} : opcodeOfCode? b = some op ↔ op.code = b := by
  constructor
  · exact code_of_opcodeOfCode?
  · rintro rfl
    exact opcodeOfCode?_code op

/-- The opcode byte is among the fixed bits of every format. -/
theorem opField_of_fixedBits {w : CommandWord} {op : Opcode} (hw : w &&& op.format.mask = op.matchWord) :
    opField w = op.code := ((fixedBits_iff _ op w).mp hw).1

/-! ### What decode answers (R55) -/

theorem decode_eq_command {w : CommandWord} {i : Instr} :
    decode w = .command i ↔ ∃ op, w &&& op.format.mask = op.matchWord ∧ i = instrOf op w := by
  constructor
  · intro hd
    simp only [decode] at hd
    split at hd
    · cases hd
    · split at hd
      · cases hd
        exact ⟨_, ‹_›, rfl⟩
      · cases hd
  · rintro ⟨op, hw, rfl⟩
    simp [decode, opField_of_fixedBits hw, hw]

theorem decode_eq_illegal {w : CommandWord} :
    (∃ why, decode w = .illegal why) ↔ ∀ op : Opcode, w &&& op.format.mask ≠ op.matchWord := by
  constructor
  · rintro ⟨why, hd⟩ op hw
    rw [decode_eq_command.mpr ⟨op, hw, rfl⟩] at hd
    cases hd
  · intro hall
    cases hd : decode w with
    | command i =>
      obtain ⟨op, hw, -⟩ := decode_eq_command.mp hd
      exact absurd hw (hall op)
    | illegal why => exact ⟨why, rfl⟩

@[simp] theorem opcode_instrOf (w : CommandWord) : (instrOf op w).opcode = op := by cases op <;> rfl

end Sys2Proof
end

