-- ==== Sys2Proof/Laws/State.lean ====
section
/-! SUPPORT. One lemma per field per named update of the state, each true by definition, so that no later proof unfolds a record
update. -/

-- One declaration after another: the package as one text holds too many proofs to elaborate them side by side.
set_option Elab.async false

namespace Sys2Proof.Machine

variable (s : State)

/-! ### `State.setStatus` -/

@[simp] theorem setStatus_status (c : Status) : (s.setStatus c).status = statusCode c := rfl
@[simp] theorem setStatus_rkind (c : Status) : (s.setStatus c).rkind = s.rkind := rfl
@[simp] theorem setStatus_rcount (c : Status) : (s.setStatus c).rcount = s.rcount := rfl
@[simp] theorem setStatus_excCode (c : Status) : (s.setStatus c).excCode = s.excCode := rfl
@[simp] theorem setStatus_rxUnit (c : Status) : (s.setStatus c).rxUnit = s.rxUnit := rfl
@[simp] theorem setStatus_rxFc (c : Status) : (s.setStatus c).rxFc = s.rxFc := rfl
@[simp] theorem setStatus_lastCrc (c : Status) : (s.setStatus c).lastCrc = s.lastCrc := rfl
@[simp] theorem setStatus_crc (c : Status) : (s.setStatus c).crc = s.crc := rfl
@[simp] theorem setStatus_res (c : Status) : (s.setStatus c).res = s.res := rfl
@[simp] theorem setStatus_flags (c : Status) : (s.setStatus c).flags = s.flags := rfl
@[simp] theorem setStatus_txbuf (c : Status) : (s.setStatus c).txbuf = s.txbuf := rfl
@[simp] theorem setStatus_txlen (c : Status) : (s.setStatus c).txlen = s.txlen := rfl
@[simp] theorem setStatus_rxbuf (c : Status) : (s.setStatus c).rxbuf = s.rxbuf := rfl
@[simp] theorem setStatus_rxlen (c : Status) : (s.setStatus c).rxlen = s.rxlen := rfl
@[simp] theorem setStatus_axf (c : Status) : (s.setStatus c).axf = s.axf := rfl
@[simp] theorem setStatus_calmax (c : Status) : (s.setStatus c).calmax = s.calmax := rfl
@[simp] theorem setStatus_posIn (c : Status) : (s.setStatus c).posIn = s.posIn := rfl
@[simp] theorem setStatus_posTag (c : Status) : (s.setStatus c).posTag = s.posTag := rfl
@[simp] theorem setStatus_posOut (c : Status) : (s.setStatus c).posOut = s.posOut := rfl
@[simp] theorem setStatus_ratio (c : Status) : (s.setStatus c).ratio = s.ratio := rfl
@[simp] theorem setStatus_ratioTag (c : Status) : (s.setStatus c).ratioTag = s.ratioTag := rfl
@[simp] theorem setStatus_dw (c : Status) : (s.setStatus c).dw = s.dw := rfl
@[simp] theorem setStatus_noresp (c : Status) : (s.setStatus c).noresp = s.noresp := rfl
@[simp] theorem setStatus_pending (c : Status) : (s.setStatus c).pending = s.pending := rfl
@[simp] theorem setStatus_cmdIndex (c : Status) : (s.setStatus c).cmdIndex = s.cmdIndex := rfl
@[simp] theorem setStatus_resets (c : Status) : (s.setStatus c).resets = s.resets := rfl

/-! ### `State.setLastCrc` -/

@[simp] theorem setLastCrc_status (c : Half) : (s.setLastCrc c).status = s.status := rfl
@[simp] theorem setLastCrc_rkind (c : Half) : (s.setLastCrc c).rkind = s.rkind := rfl
@[simp] theorem setLastCrc_rcount (c : Half) : (s.setLastCrc c).rcount = s.rcount := rfl
@[simp] theorem setLastCrc_excCode (c : Half) : (s.setLastCrc c).excCode = s.excCode := rfl
@[simp] theorem setLastCrc_rxUnit (c : Half) : (s.setLastCrc c).rxUnit = s.rxUnit := rfl
@[simp] theorem setLastCrc_rxFc (c : Half) : (s.setLastCrc c).rxFc = s.rxFc := rfl
@[simp] theorem setLastCrc_lastCrc (c : Half) : (s.setLastCrc c).lastCrc = c := rfl
@[simp] theorem setLastCrc_crc (c : Half) : (s.setLastCrc c).crc = s.crc := rfl
@[simp] theorem setLastCrc_res (c : Half) : (s.setLastCrc c).res = s.res := rfl
@[simp] theorem setLastCrc_flags (c : Half) : (s.setLastCrc c).flags = s.flags := rfl
@[simp] theorem setLastCrc_txbuf (c : Half) : (s.setLastCrc c).txbuf = s.txbuf := rfl
@[simp] theorem setLastCrc_txlen (c : Half) : (s.setLastCrc c).txlen = s.txlen := rfl
@[simp] theorem setLastCrc_rxbuf (c : Half) : (s.setLastCrc c).rxbuf = s.rxbuf := rfl
@[simp] theorem setLastCrc_rxlen (c : Half) : (s.setLastCrc c).rxlen = s.rxlen := rfl
@[simp] theorem setLastCrc_axf (c : Half) : (s.setLastCrc c).axf = s.axf := rfl
@[simp] theorem setLastCrc_calmax (c : Half) : (s.setLastCrc c).calmax = s.calmax := rfl
@[simp] theorem setLastCrc_posIn (c : Half) : (s.setLastCrc c).posIn = s.posIn := rfl
@[simp] theorem setLastCrc_posTag (c : Half) : (s.setLastCrc c).posTag = s.posTag := rfl
@[simp] theorem setLastCrc_posOut (c : Half) : (s.setLastCrc c).posOut = s.posOut := rfl
@[simp] theorem setLastCrc_ratio (c : Half) : (s.setLastCrc c).ratio = s.ratio := rfl
@[simp] theorem setLastCrc_ratioTag (c : Half) : (s.setLastCrc c).ratioTag = s.ratioTag := rfl
@[simp] theorem setLastCrc_dw (c : Half) : (s.setLastCrc c).dw = s.dw := rfl
@[simp] theorem setLastCrc_noresp (c : Half) : (s.setLastCrc c).noresp = s.noresp := rfl
@[simp] theorem setLastCrc_pending (c : Half) : (s.setLastCrc c).pending = s.pending := rfl
@[simp] theorem setLastCrc_cmdIndex (c : Half) : (s.setLastCrc c).cmdIndex = s.cmdIndex := rfl
@[simp] theorem setLastCrc_resets (c : Half) : (s.setLastCrc c).resets = s.resets := rfl

/-! ### `State.setKind` -/

@[simp] theorem setKind_status (k : ResponseKind) (count : Byte) : (s.setKind k count).status = s.status := rfl
@[simp] theorem setKind_rkind (k : ResponseKind) (count : Byte) : (s.setKind k count).rkind = kindCode k := rfl
@[simp] theorem setKind_rcount (k : ResponseKind) (count : Byte) : (s.setKind k count).rcount = count := rfl
@[simp] theorem setKind_excCode (k : ResponseKind) (count : Byte) : (s.setKind k count).excCode = s.excCode := rfl
@[simp] theorem setKind_rxUnit (k : ResponseKind) (count : Byte) : (s.setKind k count).rxUnit = s.rxUnit := rfl
@[simp] theorem setKind_rxFc (k : ResponseKind) (count : Byte) : (s.setKind k count).rxFc = s.rxFc := rfl
@[simp] theorem setKind_lastCrc (k : ResponseKind) (count : Byte) : (s.setKind k count).lastCrc = s.lastCrc := rfl
@[simp] theorem setKind_crc (k : ResponseKind) (count : Byte) : (s.setKind k count).crc = s.crc := rfl
@[simp] theorem setKind_res (k : ResponseKind) (count : Byte) : (s.setKind k count).res = s.res := rfl
@[simp] theorem setKind_flags (k : ResponseKind) (count : Byte) : (s.setKind k count).flags = s.flags := rfl
@[simp] theorem setKind_txbuf (k : ResponseKind) (count : Byte) : (s.setKind k count).txbuf = s.txbuf := rfl
@[simp] theorem setKind_txlen (k : ResponseKind) (count : Byte) : (s.setKind k count).txlen = s.txlen := rfl
@[simp] theorem setKind_rxbuf (k : ResponseKind) (count : Byte) : (s.setKind k count).rxbuf = s.rxbuf := rfl
@[simp] theorem setKind_rxlen (k : ResponseKind) (count : Byte) : (s.setKind k count).rxlen = s.rxlen := rfl
@[simp] theorem setKind_axf (k : ResponseKind) (count : Byte) : (s.setKind k count).axf = s.axf := rfl
@[simp] theorem setKind_calmax (k : ResponseKind) (count : Byte) : (s.setKind k count).calmax = s.calmax := rfl
@[simp] theorem setKind_posIn (k : ResponseKind) (count : Byte) : (s.setKind k count).posIn = s.posIn := rfl
@[simp] theorem setKind_posTag (k : ResponseKind) (count : Byte) : (s.setKind k count).posTag = s.posTag := rfl
@[simp] theorem setKind_posOut (k : ResponseKind) (count : Byte) : (s.setKind k count).posOut = s.posOut := rfl
@[simp] theorem setKind_ratio (k : ResponseKind) (count : Byte) : (s.setKind k count).ratio = s.ratio := rfl
@[simp] theorem setKind_ratioTag (k : ResponseKind) (count : Byte) : (s.setKind k count).ratioTag = s.ratioTag := rfl
@[simp] theorem setKind_dw (k : ResponseKind) (count : Byte) : (s.setKind k count).dw = s.dw := rfl
@[simp] theorem setKind_noresp (k : ResponseKind) (count : Byte) : (s.setKind k count).noresp = s.noresp := rfl
@[simp] theorem setKind_pending (k : ResponseKind) (count : Byte) : (s.setKind k count).pending = s.pending := rfl
@[simp] theorem setKind_cmdIndex (k : ResponseKind) (count : Byte) : (s.setKind k count).cmdIndex = s.cmdIndex := rfl
@[simp] theorem setKind_resets (k : ResponseKind) (count : Byte) : (s.setKind k count).resets = s.resets := rfl

/-! ### `State.setHeader` -/

@[simp] theorem setHeader_status (unit fc : Byte) : (s.setHeader unit fc).status = s.status := rfl
@[simp] theorem setHeader_rkind (unit fc : Byte) : (s.setHeader unit fc).rkind = s.rkind := rfl
@[simp] theorem setHeader_rcount (unit fc : Byte) : (s.setHeader unit fc).rcount = s.rcount := rfl
@[simp] theorem setHeader_excCode (unit fc : Byte) : (s.setHeader unit fc).excCode = s.excCode := rfl
@[simp] theorem setHeader_rxUnit (unit fc : Byte) : (s.setHeader unit fc).rxUnit = unit := rfl
@[simp] theorem setHeader_rxFc (unit fc : Byte) : (s.setHeader unit fc).rxFc = fc := rfl
@[simp] theorem setHeader_lastCrc (unit fc : Byte) : (s.setHeader unit fc).lastCrc = s.lastCrc := rfl
@[simp] theorem setHeader_crc (unit fc : Byte) : (s.setHeader unit fc).crc = s.crc := rfl
@[simp] theorem setHeader_res (unit fc : Byte) : (s.setHeader unit fc).res = s.res := rfl
@[simp] theorem setHeader_flags (unit fc : Byte) : (s.setHeader unit fc).flags = s.flags := rfl
@[simp] theorem setHeader_txbuf (unit fc : Byte) : (s.setHeader unit fc).txbuf = s.txbuf := rfl
@[simp] theorem setHeader_txlen (unit fc : Byte) : (s.setHeader unit fc).txlen = s.txlen := rfl
@[simp] theorem setHeader_rxbuf (unit fc : Byte) : (s.setHeader unit fc).rxbuf = s.rxbuf := rfl
@[simp] theorem setHeader_rxlen (unit fc : Byte) : (s.setHeader unit fc).rxlen = s.rxlen := rfl
@[simp] theorem setHeader_axf (unit fc : Byte) : (s.setHeader unit fc).axf = s.axf := rfl
@[simp] theorem setHeader_calmax (unit fc : Byte) : (s.setHeader unit fc).calmax = s.calmax := rfl
@[simp] theorem setHeader_posIn (unit fc : Byte) : (s.setHeader unit fc).posIn = s.posIn := rfl
@[simp] theorem setHeader_posTag (unit fc : Byte) : (s.setHeader unit fc).posTag = s.posTag := rfl
@[simp] theorem setHeader_posOut (unit fc : Byte) : (s.setHeader unit fc).posOut = s.posOut := rfl
@[simp] theorem setHeader_ratio (unit fc : Byte) : (s.setHeader unit fc).ratio = s.ratio := rfl
@[simp] theorem setHeader_ratioTag (unit fc : Byte) : (s.setHeader unit fc).ratioTag = s.ratioTag := rfl
@[simp] theorem setHeader_dw (unit fc : Byte) : (s.setHeader unit fc).dw = s.dw := rfl
@[simp] theorem setHeader_noresp (unit fc : Byte) : (s.setHeader unit fc).noresp = s.noresp := rfl
@[simp] theorem setHeader_pending (unit fc : Byte) : (s.setHeader unit fc).pending = s.pending := rfl
@[simp] theorem setHeader_cmdIndex (unit fc : Byte) : (s.setHeader unit fc).cmdIndex = s.cmdIndex := rfl
@[simp] theorem setHeader_resets (unit fc : Byte) : (s.setHeader unit fc).resets = s.resets := rfl

/-! ### `State.setExcCode` -/

@[simp] theorem setExcCode_status (c : Byte) : (s.setExcCode c).status = s.status := rfl
@[simp] theorem setExcCode_rkind (c : Byte) : (s.setExcCode c).rkind = s.rkind := rfl
@[simp] theorem setExcCode_rcount (c : Byte) : (s.setExcCode c).rcount = s.rcount := rfl
@[simp] theorem setExcCode_excCode (c : Byte) : (s.setExcCode c).excCode = c := rfl
@[simp] theorem setExcCode_rxUnit (c : Byte) : (s.setExcCode c).rxUnit = s.rxUnit := rfl
@[simp] theorem setExcCode_rxFc (c : Byte) : (s.setExcCode c).rxFc = s.rxFc := rfl
@[simp] theorem setExcCode_lastCrc (c : Byte) : (s.setExcCode c).lastCrc = s.lastCrc := rfl
@[simp] theorem setExcCode_crc (c : Byte) : (s.setExcCode c).crc = s.crc := rfl
@[simp] theorem setExcCode_res (c : Byte) : (s.setExcCode c).res = s.res := rfl
@[simp] theorem setExcCode_flags (c : Byte) : (s.setExcCode c).flags = s.flags := rfl
@[simp] theorem setExcCode_txbuf (c : Byte) : (s.setExcCode c).txbuf = s.txbuf := rfl
@[simp] theorem setExcCode_txlen (c : Byte) : (s.setExcCode c).txlen = s.txlen := rfl
@[simp] theorem setExcCode_rxbuf (c : Byte) : (s.setExcCode c).rxbuf = s.rxbuf := rfl
@[simp] theorem setExcCode_rxlen (c : Byte) : (s.setExcCode c).rxlen = s.rxlen := rfl
@[simp] theorem setExcCode_axf (c : Byte) : (s.setExcCode c).axf = s.axf := rfl
@[simp] theorem setExcCode_calmax (c : Byte) : (s.setExcCode c).calmax = s.calmax := rfl
@[simp] theorem setExcCode_posIn (c : Byte) : (s.setExcCode c).posIn = s.posIn := rfl
@[simp] theorem setExcCode_posTag (c : Byte) : (s.setExcCode c).posTag = s.posTag := rfl
@[simp] theorem setExcCode_posOut (c : Byte) : (s.setExcCode c).posOut = s.posOut := rfl
@[simp] theorem setExcCode_ratio (c : Byte) : (s.setExcCode c).ratio = s.ratio := rfl
@[simp] theorem setExcCode_ratioTag (c : Byte) : (s.setExcCode c).ratioTag = s.ratioTag := rfl
@[simp] theorem setExcCode_dw (c : Byte) : (s.setExcCode c).dw = s.dw := rfl
@[simp] theorem setExcCode_noresp (c : Byte) : (s.setExcCode c).noresp = s.noresp := rfl
@[simp] theorem setExcCode_pending (c : Byte) : (s.setExcCode c).pending = s.pending := rfl
@[simp] theorem setExcCode_cmdIndex (c : Byte) : (s.setExcCode c).cmdIndex = s.cmdIndex := rfl
@[simp] theorem setExcCode_resets (c : Byte) : (s.setExcCode c).resets = s.resets := rfl

/-! ### `State.setCalValid` -/

@[simp] theorem setCalValid_status (b : Bool) : (s.setCalValid b).status = s.status := rfl
@[simp] theorem setCalValid_rkind (b : Bool) : (s.setCalValid b).rkind = s.rkind := rfl
@[simp] theorem setCalValid_rcount (b : Bool) : (s.setCalValid b).rcount = s.rcount := rfl
@[simp] theorem setCalValid_excCode (b : Bool) : (s.setCalValid b).excCode = s.excCode := rfl
@[simp] theorem setCalValid_rxUnit (b : Bool) : (s.setCalValid b).rxUnit = s.rxUnit := rfl
@[simp] theorem setCalValid_rxFc (b : Bool) : (s.setCalValid b).rxFc = s.rxFc := rfl
@[simp] theorem setCalValid_lastCrc (b : Bool) : (s.setCalValid b).lastCrc = s.lastCrc := rfl
@[simp] theorem setCalValid_crc (b : Bool) : (s.setCalValid b).crc = s.crc := rfl
@[simp] theorem setCalValid_res (b : Bool) : (s.setCalValid b).res = s.res := rfl
@[simp] theorem setCalValid_flags (b : Bool) : (s.setCalValid b).flags = withCalValid b s.flags := rfl
@[simp] theorem setCalValid_txbuf (b : Bool) : (s.setCalValid b).txbuf = s.txbuf := rfl
@[simp] theorem setCalValid_txlen (b : Bool) : (s.setCalValid b).txlen = s.txlen := rfl
@[simp] theorem setCalValid_rxbuf (b : Bool) : (s.setCalValid b).rxbuf = s.rxbuf := rfl
@[simp] theorem setCalValid_rxlen (b : Bool) : (s.setCalValid b).rxlen = s.rxlen := rfl
@[simp] theorem setCalValid_axf (b : Bool) : (s.setCalValid b).axf = s.axf := rfl
@[simp] theorem setCalValid_calmax (b : Bool) : (s.setCalValid b).calmax = s.calmax := rfl
@[simp] theorem setCalValid_posIn (b : Bool) : (s.setCalValid b).posIn = s.posIn := rfl
@[simp] theorem setCalValid_posTag (b : Bool) : (s.setCalValid b).posTag = s.posTag := rfl
@[simp] theorem setCalValid_posOut (b : Bool) : (s.setCalValid b).posOut = s.posOut := rfl
@[simp] theorem setCalValid_ratio (b : Bool) : (s.setCalValid b).ratio = s.ratio := rfl
@[simp] theorem setCalValid_ratioTag (b : Bool) : (s.setCalValid b).ratioTag = s.ratioTag := rfl
@[simp] theorem setCalValid_dw (b : Bool) : (s.setCalValid b).dw = s.dw := rfl
@[simp] theorem setCalValid_noresp (b : Bool) : (s.setCalValid b).noresp = s.noresp := rfl
@[simp] theorem setCalValid_pending (b : Bool) : (s.setCalValid b).pending = s.pending := rfl
@[simp] theorem setCalValid_cmdIndex (b : Bool) : (s.setCalValid b).cmdIndex = s.cmdIndex := rfl
@[simp] theorem setCalValid_resets (b : Bool) : (s.setCalValid b).resets = s.resets := rfl

/-! ### `State.setUncal` -/

@[simp] theorem setUncal_status (b : Bool) : (s.setUncal b).status = s.status := rfl
@[simp] theorem setUncal_rkind (b : Bool) : (s.setUncal b).rkind = s.rkind := rfl
@[simp] theorem setUncal_rcount (b : Bool) : (s.setUncal b).rcount = s.rcount := rfl
@[simp] theorem setUncal_excCode (b : Bool) : (s.setUncal b).excCode = s.excCode := rfl
@[simp] theorem setUncal_rxUnit (b : Bool) : (s.setUncal b).rxUnit = s.rxUnit := rfl
@[simp] theorem setUncal_rxFc (b : Bool) : (s.setUncal b).rxFc = s.rxFc := rfl
@[simp] theorem setUncal_lastCrc (b : Bool) : (s.setUncal b).lastCrc = s.lastCrc := rfl
@[simp] theorem setUncal_crc (b : Bool) : (s.setUncal b).crc = s.crc := rfl
@[simp] theorem setUncal_res (b : Bool) : (s.setUncal b).res = s.res := rfl
@[simp] theorem setUncal_flags (b : Bool) : (s.setUncal b).flags = withUncal b s.flags := rfl
@[simp] theorem setUncal_txbuf (b : Bool) : (s.setUncal b).txbuf = s.txbuf := rfl
@[simp] theorem setUncal_txlen (b : Bool) : (s.setUncal b).txlen = s.txlen := rfl
@[simp] theorem setUncal_rxbuf (b : Bool) : (s.setUncal b).rxbuf = s.rxbuf := rfl
@[simp] theorem setUncal_rxlen (b : Bool) : (s.setUncal b).rxlen = s.rxlen := rfl
@[simp] theorem setUncal_axf (b : Bool) : (s.setUncal b).axf = s.axf := rfl
@[simp] theorem setUncal_calmax (b : Bool) : (s.setUncal b).calmax = s.calmax := rfl
@[simp] theorem setUncal_posIn (b : Bool) : (s.setUncal b).posIn = s.posIn := rfl
@[simp] theorem setUncal_posTag (b : Bool) : (s.setUncal b).posTag = s.posTag := rfl
@[simp] theorem setUncal_posOut (b : Bool) : (s.setUncal b).posOut = s.posOut := rfl
@[simp] theorem setUncal_ratio (b : Bool) : (s.setUncal b).ratio = s.ratio := rfl
@[simp] theorem setUncal_ratioTag (b : Bool) : (s.setUncal b).ratioTag = s.ratioTag := rfl
@[simp] theorem setUncal_dw (b : Bool) : (s.setUncal b).dw = s.dw := rfl
@[simp] theorem setUncal_noresp (b : Bool) : (s.setUncal b).noresp = s.noresp := rfl
@[simp] theorem setUncal_pending (b : Bool) : (s.setUncal b).pending = s.pending := rfl
@[simp] theorem setUncal_cmdIndex (b : Bool) : (s.setUncal b).cmdIndex = s.cmdIndex := rfl
@[simp] theorem setUncal_resets (b : Bool) : (s.setUncal b).resets = s.resets := rfl

/-! ### `State.setFrame` -/

@[simp] theorem setFrame_status (frame : List Byte) (c : Half) : (s.setFrame frame c).status = s.status := rfl
@[simp] theorem setFrame_rkind (frame : List Byte) (c : Half) : (s.setFrame frame c).rkind = s.rkind := rfl
@[simp] theorem setFrame_rcount (frame : List Byte) (c : Half) : (s.setFrame frame c).rcount = s.rcount := rfl
@[simp] theorem setFrame_excCode (frame : List Byte) (c : Half) : (s.setFrame frame c).excCode = s.excCode := rfl
@[simp] theorem setFrame_rxUnit (frame : List Byte) (c : Half) : (s.setFrame frame c).rxUnit = s.rxUnit := rfl
@[simp] theorem setFrame_rxFc (frame : List Byte) (c : Half) : (s.setFrame frame c).rxFc = s.rxFc := rfl
@[simp] theorem setFrame_lastCrc (frame : List Byte) (c : Half) : (s.setFrame frame c).lastCrc = c := rfl
@[simp] theorem setFrame_crc (frame : List Byte) (c : Half) : (s.setFrame frame c).crc = s.crc := rfl
@[simp] theorem setFrame_res (frame : List Byte) (c : Half) : (s.setFrame frame c).res = s.res := rfl
@[simp] theorem setFrame_flags (frame : List Byte) (c : Half) : (s.setFrame frame c).flags = s.flags := rfl
@[simp] theorem setFrame_txbuf (frame : List Byte) (c : Half) : (s.setFrame frame c).txbuf = s.txbuf.writeList 0 frame := rfl
@[simp] theorem setFrame_txlen (frame : List Byte) (c : Half) : (s.setFrame frame c).txlen = BitVec.ofNat 9 frame.length := rfl
@[simp] theorem setFrame_rxbuf (frame : List Byte) (c : Half) : (s.setFrame frame c).rxbuf = s.rxbuf := rfl
@[simp] theorem setFrame_rxlen (frame : List Byte) (c : Half) : (s.setFrame frame c).rxlen = s.rxlen := rfl
@[simp] theorem setFrame_axf (frame : List Byte) (c : Half) : (s.setFrame frame c).axf = s.axf := rfl
@[simp] theorem setFrame_calmax (frame : List Byte) (c : Half) : (s.setFrame frame c).calmax = s.calmax := rfl
@[simp] theorem setFrame_posIn (frame : List Byte) (c : Half) : (s.setFrame frame c).posIn = s.posIn := rfl
@[simp] theorem setFrame_posTag (frame : List Byte) (c : Half) : (s.setFrame frame c).posTag = s.posTag := rfl
@[simp] theorem setFrame_posOut (frame : List Byte) (c : Half) : (s.setFrame frame c).posOut = s.posOut := rfl
@[simp] theorem setFrame_ratio (frame : List Byte) (c : Half) : (s.setFrame frame c).ratio = s.ratio := rfl
@[simp] theorem setFrame_ratioTag (frame : List Byte) (c : Half) : (s.setFrame frame c).ratioTag = s.ratioTag := rfl
@[simp] theorem setFrame_dw (frame : List Byte) (c : Half) : (s.setFrame frame c).dw = s.dw := rfl
@[simp] theorem setFrame_noresp (frame : List Byte) (c : Half) : (s.setFrame frame c).noresp = s.noresp := rfl
@[simp] theorem setFrame_pending (frame : List Byte) (c : Half) : (s.setFrame frame c).pending = s.pending := rfl
@[simp] theorem setFrame_cmdIndex (frame : List Byte) (c : Half) : (s.setFrame frame c).cmdIndex = s.cmdIndex := rfl
@[simp] theorem setFrame_resets (frame : List Byte) (c : Half) : (s.setFrame frame c).resets = s.resets := rfl

/-! ### `State.takeCommand` -/

@[simp] theorem takeCommand_status (rest : List HostInput) : (s.takeCommand rest).status = s.status := rfl
@[simp] theorem takeCommand_rkind (rest : List HostInput) : (s.takeCommand rest).rkind = s.rkind := rfl
@[simp] theorem takeCommand_rcount (rest : List HostInput) : (s.takeCommand rest).rcount = s.rcount := rfl
@[simp] theorem takeCommand_excCode (rest : List HostInput) : (s.takeCommand rest).excCode = s.excCode := rfl
@[simp] theorem takeCommand_rxUnit (rest : List HostInput) : (s.takeCommand rest).rxUnit = s.rxUnit := rfl
@[simp] theorem takeCommand_rxFc (rest : List HostInput) : (s.takeCommand rest).rxFc = s.rxFc := rfl
@[simp] theorem takeCommand_lastCrc (rest : List HostInput) : (s.takeCommand rest).lastCrc = s.lastCrc := rfl
@[simp] theorem takeCommand_crc (rest : List HostInput) : (s.takeCommand rest).crc = s.crc := rfl
@[simp] theorem takeCommand_res (rest : List HostInput) : (s.takeCommand rest).res = s.res := rfl
@[simp] theorem takeCommand_flags (rest : List HostInput) : (s.takeCommand rest).flags = s.flags := rfl
@[simp] theorem takeCommand_txbuf (rest : List HostInput) : (s.takeCommand rest).txbuf = s.txbuf := rfl
@[simp] theorem takeCommand_txlen (rest : List HostInput) : (s.takeCommand rest).txlen = s.txlen := rfl
@[simp] theorem takeCommand_rxbuf (rest : List HostInput) : (s.takeCommand rest).rxbuf = s.rxbuf := rfl
@[simp] theorem takeCommand_rxlen (rest : List HostInput) : (s.takeCommand rest).rxlen = s.rxlen := rfl
@[simp] theorem takeCommand_axf (rest : List HostInput) : (s.takeCommand rest).axf = s.axf := rfl
@[simp] theorem takeCommand_calmax (rest : List HostInput) : (s.takeCommand rest).calmax = s.calmax := rfl
@[simp] theorem takeCommand_posIn (rest : List HostInput) : (s.takeCommand rest).posIn = s.posIn := rfl
@[simp] theorem takeCommand_posTag (rest : List HostInput) : (s.takeCommand rest).posTag = s.posTag := rfl
@[simp] theorem takeCommand_posOut (rest : List HostInput) : (s.takeCommand rest).posOut = s.posOut := rfl
@[simp] theorem takeCommand_ratio (rest : List HostInput) : (s.takeCommand rest).ratio = s.ratio := rfl
@[simp] theorem takeCommand_ratioTag (rest : List HostInput) : (s.takeCommand rest).ratioTag = s.ratioTag := rfl
@[simp] theorem takeCommand_dw (rest : List HostInput) : (s.takeCommand rest).dw = s.dw := rfl
@[simp] theorem takeCommand_noresp (rest : List HostInput) : (s.takeCommand rest).noresp = s.noresp := rfl
@[simp] theorem takeCommand_pending (rest : List HostInput) : (s.takeCommand rest).pending = rest := rfl
@[simp] theorem takeCommand_cmdIndex (rest : List HostInput) : (s.takeCommand rest).cmdIndex = s.cmdIndex + 1 := rfl
@[simp] theorem takeCommand_resets (rest : List HostInput) : (s.takeCommand rest).resets = s.resets := rfl

/-! ### `State.takeReset` -/

@[simp] theorem takeReset_status (rest : List HostInput) : (s.takeReset rest).status = State.reset.status := rfl
@[simp] theorem takeReset_rkind (rest : List HostInput) : (s.takeReset rest).rkind = State.reset.rkind := rfl
@[simp] theorem takeReset_rcount (rest : List HostInput) : (s.takeReset rest).rcount = State.reset.rcount := rfl
@[simp] theorem takeReset_excCode (rest : List HostInput) : (s.takeReset rest).excCode = State.reset.excCode := rfl
@[simp] theorem takeReset_rxUnit (rest : List HostInput) : (s.takeReset rest).rxUnit = State.reset.rxUnit := rfl
@[simp] theorem takeReset_rxFc (rest : List HostInput) : (s.takeReset rest).rxFc = State.reset.rxFc := rfl
@[simp] theorem takeReset_lastCrc (rest : List HostInput) : (s.takeReset rest).lastCrc = State.reset.lastCrc := rfl
@[simp] theorem takeReset_crc (rest : List HostInput) : (s.takeReset rest).crc = State.reset.crc := rfl
@[simp] theorem takeReset_res (rest : List HostInput) : (s.takeReset rest).res = State.reset.res := rfl
@[simp] theorem takeReset_flags (rest : List HostInput) : (s.takeReset rest).flags = State.reset.flags := rfl
@[simp] theorem takeReset_txbuf (rest : List HostInput) : (s.takeReset rest).txbuf = State.reset.txbuf := rfl
@[simp] theorem takeReset_txlen (rest : List HostInput) : (s.takeReset rest).txlen = State.reset.txlen := rfl
@[simp] theorem takeReset_rxbuf (rest : List HostInput) : (s.takeReset rest).rxbuf = State.reset.rxbuf := rfl
@[simp] theorem takeReset_rxlen (rest : List HostInput) : (s.takeReset rest).rxlen = State.reset.rxlen := rfl
@[simp] theorem takeReset_axf (rest : List HostInput) : (s.takeReset rest).axf = State.reset.axf := rfl
@[simp] theorem takeReset_calmax (rest : List HostInput) : (s.takeReset rest).calmax = State.reset.calmax := rfl
@[simp] theorem takeReset_posIn (rest : List HostInput) : (s.takeReset rest).posIn = State.reset.posIn := rfl
@[simp] theorem takeReset_posTag (rest : List HostInput) : (s.takeReset rest).posTag = State.reset.posTag := rfl
@[simp] theorem takeReset_posOut (rest : List HostInput) : (s.takeReset rest).posOut = State.reset.posOut := rfl
@[simp] theorem takeReset_ratio (rest : List HostInput) : (s.takeReset rest).ratio = State.reset.ratio := rfl
@[simp] theorem takeReset_ratioTag (rest : List HostInput) : (s.takeReset rest).ratioTag = State.reset.ratioTag := rfl
@[simp] theorem takeReset_dw (rest : List HostInput) : (s.takeReset rest).dw = State.reset.dw := rfl
@[simp] theorem takeReset_noresp (rest : List HostInput) : (s.takeReset rest).noresp = s.noresp := rfl
@[simp] theorem takeReset_pending (rest : List HostInput) : (s.takeReset rest).pending = rest := rfl
@[simp] theorem takeReset_cmdIndex (rest : List HostInput) : (s.takeReset rest).cmdIndex = s.cmdIndex := rfl
@[simp] theorem takeReset_resets (rest : List HostInput) : (s.takeReset rest).resets = s.resets + 1 := rfl

end Sys2Proof.Machine
end

