-- ==== Sys2Proof/Laws/Ops.lean ====
section
/-! SUPPORT. The laws of the shared operations: six-axis files, arrays (read after write, canonical form), byte order, FLAGS, the
checksum, and the ends of a command. -/

-- One declaration after another: the package as one text holds too many proofs to elaborate them side by side.
set_option Elab.async false

namespace Sys2Proof.Machine

/-! ### Six-axis files -/

@[simp] theorem Axes.get_ofFn {α : Type} (f : Fin 6 → α) (k : Fin 6) : (Axes.ofFn f).get k = f k := by
  fin_cases k <;> rfl

theorem Axes.ext_get {α : Type} {v w : Axes α} (h : ∀ k, v.get k = w.get k) : v = w := by
  cases v
  cases w
  simpa [Axes.get] using ⟨h 0, h 1, h 2, h 3, h 4, h 5⟩

@[simp] theorem Axes.get_set {α : Type} (v : Axes α) (j k : Fin 6) (x : α) :
    (v.set k x).get j = if j = k then x else v.get j := by
  simp [Axes.set]

theorem Axes.anySet_iff (v : Axes Bool) : v.anySet = true ↔ ∃ k, v.get k = true := by
  constructor
  · intro h
    simp only [Axes.anySet, Bool.or_eq_true] at h
    rcases h with ((((h | h) | h) | h) | h) | h
    exacts [⟨0, h⟩, ⟨1, h⟩, ⟨2, h⟩, ⟨3, h⟩, ⟨4, h⟩, ⟨5, h⟩]
  · rintro ⟨k, h⟩
    fin_cases k <;> simp_all [Axes.anySet, Axes.get]

/-! ### Arrays -/

variable {n : Nat}

@[simp] theorem Mem.read_nil (i : Nat) : Mem.read ([] : Mem n) i = none := rfl

/-- Read after write, on every list, canonical or not. -/
theorem Mem.read_write (m : Mem n) (i j : Nat) (v : BitVec n) :
    (m.write i v).read j = if j = i then some v else m.read j := by
  induction m with
  | nil => simp [Mem.write, Mem.read, eq_comm]
  | cons x rest ih =>
    obtain ⟨a, u⟩ := x
    by_cases h1 : i < a
    · simp [Mem.write, Mem.read, h1, eq_comm]
    · by_cases h2 : i = a
      · subst h2
        simp only [Mem.write, Mem.read, lt_irrefl, if_false, if_true, eq_comm (a := i) (b := j)]
        split <;> rfl
      · simp only [Mem.write, Mem.read, h1, h2, if_false, ih]
        by_cases h3 : a = j
        · subst h3
          simp [Ne.symm h2]
        · simp [h3]

@[simp] theorem Mem.read_write_same (m : Mem n) (i : Nat) (v : BitVec n) : (m.write i v).read i = some v := by
  simp [Mem.read_write]

theorem Mem.read_write_other (m : Mem n) {i j : Nat} (v : BitVec n) (h : j ≠ i) : (m.write i v).read j = m.read j := by
  simp [Mem.read_write, h]

/-- What the entries of an array are after a write: the new one and old ones. -/
theorem Mem.mem_write {m : Mem n} {i : Nat} {v : BitVec n} {x : Nat × BitVec n} (h : x ∈ m.write i v) :
    x = (i, v) ∨ x ∈ m := by
  induction m with
  | nil => simpa [Mem.write] using h
  | cons y rest ih =>
    obtain ⟨a, u⟩ := y
    simp only [Mem.write] at h
    split at h
    · simpa using h
    · split at h
      · simp only [List.mem_cons] at h ⊢
        tauto
      · simp only [List.mem_cons] at h ⊢
        rcases h with h | h
        · exact .inr (.inl h)
        · exact (ih h).imp_right .inr

/-- A write keeps the canonical form. -/
theorem Mem.wf_write {m : Mem n} (h : m.wf) (i : Nat) (v : BitVec n) : Mem.wf (m.write i v) := by
  induction m with
  | nil => simp [Mem.wf, Mem.write]
  | cons x rest ih =>
    obtain ⟨a, u⟩ := x
    obtain ⟨h1, h2⟩ := List.pairwise_cons.mp h
    simp only [Mem.write]
    split
    · rename_i hlt
      refine List.pairwise_cons.mpr ⟨?_, h⟩
      intro y hy
      rcases List.mem_cons.mp hy with rfl | hy
      · exact hlt
      · exact lt_trans hlt (h1 y hy)
    · split
      · rename_i heq
        subst heq
        exact List.pairwise_cons.mpr ⟨h1, h2⟩
      · refine List.pairwise_cons.mpr ⟨?_, ih h2⟩
        intro y hy
        rcases Mem.mem_write hy with rfl | hy
        · show a < i
          omega
        · exact h1 y hy

/-- A write at an index in range keeps every index in range. -/
theorem Mem.range_write {m : Mem n} {b : Nat} (h : ∀ x ∈ m, x.1 < b) {i : Nat} (hi : i < b) (v : BitVec n) :
    ∀ x ∈ m.write i v, x.1 < b := by
  intro x hx
  rcases Mem.mem_write hx with rfl | hx
  · exact hi
  · exact h x hx

@[simp] theorem Mem.writeList_nil (m : Mem n) (i : Nat) : m.writeList i [] = m := rfl

theorem Mem.writeList_cons (m : Mem n) (i : Nat) (v : BitVec n) (vs : List (BitVec n)) :
    m.writeList i (v :: vs) = (m.write i v).writeList (i + 1) vs := rfl

/-- Read after a list is written: the list's element inside it, the old element outside. -/
theorem Mem.read_writeList (m : Mem n) (i j : Nat) (l : List (BitVec n)) :
    (m.writeList i l).read j = if i ≤ j ∧ j < i + l.length then l[j - i]? else m.read j := by
  induction l generalizing m i with
  | nil =>
    have : ¬ (i ≤ j ∧ j < i) := by omega
    simp [this]
  | cons v vs ih =>
    rw [Mem.writeList_cons, ih, List.length_cons]
    by_cases h : j = i
    · subst h
      simp
    · rw [Mem.read_write_other _ _ h]
      by_cases h1 : i + 1 ≤ j ∧ j < i + 1 + vs.length
      · have h2 : i ≤ j ∧ j < i + (vs.length + 1) := by omega
        rw [if_pos h1, if_pos h2]
        obtain ⟨d, rfl⟩ : ∃ d, j = i + 1 + d := ⟨j - (i + 1), by omega⟩
        have e1 : i + 1 + d - (i + 1) = d := by omega
        have e2 : i + 1 + d - i = d + 1 := by omega
        simp [e1, e2]
      · have h2 : ¬ (i ≤ j ∧ j < i + (vs.length + 1)) := by omega
        rw [if_neg h1, if_neg h2]

theorem Mem.wf_writeList {m : Mem n} (h : m.wf) (i : Nat) (l : List (BitVec n)) : Mem.wf (m.writeList i l) := by
  induction l generalizing m i with
  | nil => exact h
  | cons v vs ih => exact ih (Mem.wf_write h i v) (i + 1)

theorem Mem.range_writeList {m : Mem n} {b : Nat} (h : ∀ x ∈ m, x.1 < b) {i : Nat} (l : List (BitVec n))
    (hi : i + l.length ≤ b) : ∀ x ∈ m.writeList i l, x.1 < b := by
  induction l generalizing m i with
  | nil => exact h
  | cons v vs ih =>
    simp only [List.length_cons] at hi
    exact ih (Mem.range_write h (by omega) v) (by omega)

/-- Reading a canonical array below its first index finds nothing. -/
theorem Mem.read_lt {m : Mem n} {i : Nat} (h : ∀ x ∈ m, i < x.1) : m.read i = none := by
  induction m with
  | nil => rfl
  | cons x rest ih =>
    obtain ⟨a, u⟩ := x
    have h1 : i < a := h (a, u) (by simp)
    have : ¬ a = i := by omega
    simp only [Mem.read, this, if_false]
    exact ih fun y hy => h y (by simp [hy])

/-- Canonical arrays that read alike are equal. -/
theorem Mem.ext_read {m k : Mem n} (hm : m.wf) (hk : Mem.wf k) (h : ∀ i, m.read i = k.read i) : m = k := by
  induction m generalizing k with
  | nil =>
    cases k with
    | nil => rfl
    | cons y ys => simpa [Mem.read] using h y.1
  | cons x xs ih =>
    obtain ⟨a, u⟩ := x
    obtain ⟨hx, hxs⟩ := List.pairwise_cons.mp hm
    cases k with
    | nil => simpa [Mem.read] using h a
    | cons y ys =>
      obtain ⟨b, w⟩ := y
      obtain ⟨hy, hys⟩ := List.pairwise_cons.mp hk
      have key : a = b := by
        rcases lt_trichotomy a b with hlt | heq | hgt
        · have h0 : Mem.read ((b, w) :: ys) a = none :=
            Mem.read_lt (by
              intro z hz
              rcases List.mem_cons.mp hz with rfl | hz
              · exact hlt
              · exact lt_trans hlt (hy z hz))
          have := h a
          rw [h0] at this
          simp [Mem.read] at this
        · exact heq
        · have h0 : Mem.read ((a, u) :: xs) b = none :=
            Mem.read_lt (by
              intro z hz
              rcases List.mem_cons.mp hz with rfl | hz
              · exact hgt
              · exact lt_trans hgt (hx z hz))
          have := h b
          rw [h0] at this
          simp [Mem.read] at this
      subst key
      have huw : u = w := by simpa [Mem.read] using h a
      subst huw
      have : xs = ys := ih hxs hys (by
        intro i
        by_cases hi : a = i
        · subst hi
          rw [Mem.read_lt hx, Mem.read_lt hy]
        · simpa [Mem.read, hi] using h i)
      rw [this]

/-! ### Buffers -/

@[simp] theorem rxRead_length (s : State) (i k : Nat) : (rxRead s i k).length = k := by simp [rxRead]

@[simp] theorem txRead_length (s : State) (i k : Nat) : (txRead s i k).length = k := by simp [txRead]

theorem rxByte_of_read {s : State} {i : Nat} {b : Byte} (h : s.rxbuf.read i = some b) : rxByte s i = b := by
  simp [rxByte, h]

theorem txByte_of_read {s : State} {i : Nat} {b : Byte} (h : s.txbuf.read i = some b) : txByte s i = b := by
  simp [txByte, h]

theorem dataWord_of_read {s : State} {i : Nat} {w : Half} (h : s.dw.read i = some w) : dataWord s i = w := by
  simp [dataWord, h]

@[simp] theorem stagedWords_length (s : State) (k : Nat) : (stagedWords s k).length = k := by simp [stagedWords]

/-- The words an encoder stages are the data words, in order. -/
theorem eq_stagedWords {s : State} {k : Nat} {l : List Half} (hl : l.length = k)
    (h : ∀ j (hj : j < l.length), l[j] = dataWord s j) : l = stagedWords s k := by
  apply List.ext_getElem
  · simp [hl]
  · intro j hj _
    simp [stagedWords, h j hj]

theorem positionWord_of_tag {s : State} {k : Fin 6} (h : s.posTag.get k = true) : positionWord s k = s.posIn.get k := by
  simp [positionWord, h]

theorem ratioWord_of_tag {s : State} {k : Fin 6} (h : s.ratioTag.get k = true) : ratioWord s k = s.ratio.get k := by
  simp [ratioWord, h]

/-! ### FLAGS -/

@[simp] theorem calValid_withCalValid (b : Bool) (f : BitVec 2) : calValid (withCalValid b f) = b := by
  revert b f
  decide

@[simp] theorem uncal_withCalValid (b : Bool) (f : BitVec 2) : uncal (withCalValid b f) = uncal f := by
  revert b f
  decide

@[simp] theorem calValid_withUncal (b : Bool) (f : BitVec 2) : calValid (withUncal b f) = calValid f := by
  revert b f
  decide

@[simp] theorem uncal_withUncal (b : Bool) (f : BitVec 2) : uncal (withUncal b f) = b := by
  revert b f
  decide

/-! ### The checksum -/

@[simp] theorem crc16_nil : crc16 [] = 0xFFFF#16 := rfl

theorem crc16_append_one (l : List Byte) (b : Byte) : crc16 (l ++ [b]) = crcStep (crc16 l) b := by
  simp [crc16, List.foldl_append]

/-! ### The ends of a command -/

@[simp] theorem done_eq (s : State) : done s = .next (s.setStatus .ok) := rfl

@[simp] theorem raise_eq (c : Status) (s : State) : raise c s = .next (s.setStatus c) := rfl

end Sys2Proof.Machine
end

