-- ==== Sys2Proof/Laws/Operands.lean ====
section
/-! SUPPORT. What each operand check and conversion answers, so that no later proof unfolds it. -/

-- One declaration after another: the package as one text holds too many proofs to elaborate them side by side.
set_option Elab.async false

namespace Sys2Proof.Machine

theorem axisSlot?_eq_some {axis : Byte} {k : Fin 6} : axisSlot? axis = some k ↔ axis.toNat = k.val + 1 := by
  unfold axisSlot?
  split
  · simp only [Option.some.injEq, Fin.ext_iff]
    omega
  · have := k.isLt
    simp only [reduceCtorEq, false_iff]
    omega

theorem axisSlot?_eq_none {axis : Byte} : axisSlot? axis = none ↔ axis.toNat < 1 ∨ 6 < axis.toNat := by
  unfold axisSlot?
  split
  · simp only [reduceCtorEq, false_iff]
    omega
  · simp only [true_iff]
    omega

theorem dataIndex?_eq_some {index : Byte} {i : Nat} : dataIndex? index = some i ↔ index.toNat = i ∧ i ≤ 124 := by
  unfold dataIndex? Config.dataWords
  split
  · simp only [Option.some.injEq]
    omega
  · simp only [reduceCtorEq, false_iff]
    omega

theorem dataIndex?_eq_none {index : Byte} : dataIndex? index = none ↔ 124 < index.toNat := by
  unfold dataIndex? Config.dataWords
  split
  · simp only [reduceCtorEq, false_iff]
    omega
  · simp only [true_iff]
    omega

theorem unitOk_iff {unit : Byte} : unitOk unit = true ↔ unit ≠ 0#8 := by simp [unitOk]

theorem countOk_iff {count : Half} {most : Nat} : countOk count most = true ↔ 1 ≤ count.toNat ∧ count.toNat ≤ most := by
  simp [countOk]

theorem ratioOk_iff {ratio : Half} : ratioOk ratio = true ↔ ratio.toNat ≤ 0x8000 := decide_eq_true_iff

theorem expectationOk_iff {fe : Byte} {cnt : Half} :
    expectationOk fe cnt = true ↔
      (fe = 0x03#8 ∧ 1 ≤ cnt.toNat ∧ cnt.toNat ≤ 125) ∨ fe = 0x06#8 ∨ fe = 0x10#8 := by
  unfold expectationOk
  split
  · rename_i h
    subst h
    simp [countOk_iff, Config.maxReadCount]
  · rename_i h
    simp [h]

theorem axisAddress?_eq_some {base : Half} {k : Fin 6} {stride : Nat} {a : Half} :
    axisAddress? base k stride = some a ↔ a.toNat = base.toNat + k.val * stride := by
  have := a.isLt
  unfold axisAddress?
  split
  · rename_i h
    simp only [Option.some.injEq, ← BitVec.toNat_inj, BitVec.toNat_ofNat]
    rw [Nat.mod_eq_of_lt (by omega)]
    exact eq_comm
  · simp only [reduceCtorEq, false_iff]
    omega

theorem axisAddress?_eq_none {base : Half} {k : Fin 6} {stride : Nat} :
    axisAddress? base k stride = none ↔ 0xFFFF < base.toNat + k.val * stride := by
  unfold axisAddress?
  split
  · simp only [reduceCtorEq, false_iff]
    omega
  · simp only [true_iff]
    omega

/-- An axis identifier in 1..6 names a slot. -/
theorem axisSlot?_of_range {axis : Byte} (h1 : 1 ≤ axis.toNat) (h6 : axis.toNat ≤ 6) :
    ∃ k : Fin 6, axisSlot? axis = some k ∧ axis.toNat = k.val + 1 :=
  ⟨⟨axis.toNat - 1, by omega⟩, axisSlot?_eq_some.mpr (by simp only; omega), by simp only; omega⟩

end Sys2Proof.Machine
end

