-- ==== Sys2Proof/Laws/Guard.lean ====
section
/-! SUPPORT. The laws of the guard of R33: what its tests say, and that a guarded command is the machine's own where it does not
fault. -/

-- One declaration after another: the package as one text holds too many proofs to elaborate them side by side.
set_option Elab.async false

namespace Sys2Proof.Machine

variable {s t : State} {i : Instr}

@[simp] theorem unguarded_next (t : State) : unguarded (.next t) = .next t := rfl

theorem dataTagged_iff {n : Nat} : dataTagged s n = true ↔ ∀ j, j < n → (s.dw.read j).isSome = true := by
  simp [dataTagged]

theorem Axes.allTagged_iff (v : Axes Bool) : v.allTagged = true ↔ ∀ k, v.get k = true := by
  constructor
  · intro h k
    simp only [Axes.allTagged, Bool.and_eq_true] at h
    fin_cases k <;> simp [Axes.get, h]
  · intro h
    simpa [Axes.allTagged, Axes.get, and_assoc] using And.intro (h 0) ⟨h 1, h 2, h 3, h 4, h 5⟩

theorem execGuarded_of_none (h : untaggedRead? i s = none) : execGuarded i s = unguarded (exec i s) := by
  simp [execGuarded, h]

theorem execGuarded_of_some {f : UntaggedRead} (h : untaggedRead? i s = some f) : execGuarded i s = .fault f := by
  simp [execGuarded, h]

/-- A guarded command that answers a next state answers the machine's own. -/
theorem exec_of_execGuarded (h : execGuarded i s = .next t) : exec i s = .next t := by
  unfold execGuarded at h
  split at h
  · cases h
  · cases he : exec i s with
    | next u =>
      rw [he] at h
      cases h
      rfl
    | fault f => cases f
    | refused r =>
      rw [he] at h
      cases h

/-- A guarded step that answers a next state answers the machine's own. -/
theorem step_of_stepGuarded (h : stepGuarded s = .next t) : step s = .next t := by
  have plain : ∀ {r : Result}, unguarded r = .next t → r = .next t := by
    intro r hr
    cases r with
    | next u => simpa using hr
    | fault f => cases f
    | refused r => cases hr
  unfold stepGuarded at h
  split at h
  · rename_i w rest hp
    split at h
    · rename_i i hd
      simpa [step, hp, execWord, hd] using exec_of_execGuarded h
    · exact plain h
  all_goals exact plain h

end Sys2Proof.Machine
end

