-- ==== Sys2Proof/Laws/Meanings.lean ====
section
/-! SUPPORT. For each meaning, once, everything it can do when it answers a next state: the conditions of each outcome and the
state it leaves. Later proofs cite these and unfold no meaning. -/

-- One declaration after another: the package as one text holds too many proofs to elaborate them side by side.
set_option Elab.async false

namespace Sys2Proof.Machine

variable {s t : State}

/-! ### The checksum commands -/

theorem execCrcInit_next (h : execCrcInit s = .next t) : t = { s with crc := 0xFFFF#16 }.setStatus .ok := by
  cases h
  rfl

theorem execCrcByte_next {b : Byte} (h : execCrcByte b s = .next t) :
    t = { s with crc := crcStep s.crc b }.setStatus .ok := by
  cases h
  rfl

theorem execCrcCheck_next (h : execCrcCheck s = .next t) :
    (s.rxlen.toNat < 5 ∧ t = s.setStatus .incompleteFrame) ∨
    (5 ≤ s.rxlen.toNat ∧ computedCrc s ≠ receivedCrc s ∧
      t = (s.setLastCrc (computedCrc s)).setStatus .checksumMismatch) ∨
    (5 ≤ s.rxlen.toNat ∧ computedCrc s = receivedCrc s ∧ t = (s.setLastCrc (computedCrc s)).setStatus .ok) := by
  unfold execCrcCheck at h
  split at h
  · cases h
    exact .inl ⟨‹_›, rfl⟩
  · split at h <;> cases h
    · exact .inr (.inl ⟨by omega, ‹_›, rfl⟩)
    · exact .inr (.inr ⟨by omega, not_not.mp ‹_›, rfl⟩)

/-! ### The staging commands -/

theorem execRxClear_next (h : execRxClear s = .next t) : t = { s with rxlen := 0#9 }.setStatus .ok := by
  cases h
  rfl

theorem execRxPush_next {b : Byte} (h : execRxPush b s = .next t) :
    (s.rxlen = 256#9 ∧ t = s.setStatus .rxOverflow) ∨
    (s.rxlen ≠ 256#9 ∧
      t = { s with rxbuf := s.rxbuf.write s.rxlen.toNat b, rxlen := s.rxlen + 1#9 }.setStatus .ok) := by
  unfold execRxPush at h
  split at h <;> cases h
  · exact .inl ⟨‹_›, rfl⟩
  · exact .inr ⟨‹_›, rfl⟩

theorem execDwWrite_next {index : Byte} {value : Half} (h : execDwWrite index value s = .next t) :
    (124 < index.toNat ∧ t = s.setStatus .invalidArgument) ∨
    (index.toNat ≤ 124 ∧ t = { s with dw := s.dw.write index.toNat value }.setStatus .ok) := by
  unfold execDwWrite at h
  split at h <;> cases h
  · exact .inl ⟨dataIndex?_eq_none.mp ‹_›, rfl⟩
  · rename_i hi
    obtain ⟨rfl, hle⟩ := dataIndex?_eq_some.mp hi
    exact .inr ⟨hle, rfl⟩

/-! ### The encoder -/

/-- The state after a frame with this body has been built. -/
def State.withFrame (s : State) (body : List Byte) : State :=
  (s.setFrame (body ++ le16 (crc16 body)) (crc16 body)).setStatus .ok

theorem finishFrame_eq (body : List Byte) (s : State) : finishFrame body s = .next (s.withFrame body) := rfl

theorem shortBody_length (unit fc : Byte) (address field : Half) : (shortBody unit fc address field).length = 6 := rfl

theorem flatMap_be16_length (values : List Half) : (values.flatMap be16).length = 2 * values.length := by
  induction values with
  | nil => rfl
  | cons v vs ih =>
    rw [List.flatMap_cons, List.length_append, ih, List.length_cons]
    show 2 + _ = _
    omega

theorem writeBody_length (unit : Byte) (address count : Half) (values : List Half) :
    (writeBody unit address count values).length = 7 + 2 * values.length := by
  unfold writeBody
  rw [List.length_append, flatMap_be16_length]
  rfl

theorem execEncRead_next {unit : Byte} {address count : Half} (h : execEncRead unit address count s = .next t) :
    ((unit = 0#8 ∨ count.toNat < 1 ∨ 125 < count.toNat) ∧ t = s.setStatus .invalidArgument) ∨
    (unit ≠ 0#8 ∧ 1 ≤ count.toNat ∧ count.toNat ≤ 125 ∧ t = s.withFrame (shortBody unit 0x03#8 address count)) := by
  unfold execEncRead at h
  split at h <;> rename_i hc <;> cases h
  · rw [Bool.and_eq_true, unitOk_iff, countOk_iff] at hc
    exact .inr ⟨hc.1, hc.2.1, hc.2.2, rfl⟩
  · rw [Bool.and_eq_true, unitOk_iff, countOk_iff, Config.maxReadCount] at hc
    refine .inl ⟨?_, rfl⟩
    by_cases hu : unit = 0#8
    · exact .inl hu
    · exact .inr (by
        by_contra hn
        exact hc ⟨hu, by omega⟩)

theorem execEncWrite1_next {unit : Byte} {address value : Half} (h : execEncWrite1 unit address value s = .next t) :
    (unit = 0#8 ∧ t = s.setStatus .invalidArgument) ∨
    (unit ≠ 0#8 ∧ t = s.withFrame (shortBody unit 0x06#8 address value)) := by
  unfold execEncWrite1 at h
  split at h <;> rename_i hc <;> cases h <;> rw [unitOk_iff] at hc
  · exact .inr ⟨hc, rfl⟩
  · exact .inl ⟨not_not.mp hc, rfl⟩

theorem execEncWriteN_next {unit : Byte} {address count : Half} (h : execEncWriteN unit address count s = .next t) :
    ((unit = 0#8 ∨ count.toNat < 1 ∨ 123 < count.toNat) ∧ t = s.setStatus .invalidArgument) ∨
    (unit ≠ 0#8 ∧ 1 ≤ count.toNat ∧ count.toNat ≤ 123 ∧
      t = s.withFrame (writeBody unit address count (stagedWords s count.toNat))) := by
  unfold execEncWriteN at h
  split at h <;> rename_i hc
  · rw [Bool.and_eq_true, unitOk_iff, countOk_iff] at hc
    cases h
    exact .inr ⟨hc.1, hc.2.1, hc.2.2, rfl⟩
  · rw [Bool.and_eq_true, unitOk_iff, countOk_iff, Config.maxWriteCount] at hc
    cases h
    refine .inl ⟨?_, rfl⟩
    by_cases hu : unit = 0#8
    · exact .inl hu
    · exact .inr (by
        by_contra hn
        exact hc ⟨hu, by omega⟩)

/-! ### The decoder -/

theorem takeException_next (h : takeException s = .next t) :
    (s.noresp = some (rxByte s 2) ∧ t = ((s.setExcCode (rxByte s 2)).setKind .norespAck 0).setStatus .ok) ∨
    (s.noresp ≠ some (rxByte s 2) ∧
      t = ((s.setExcCode (rxByte s 2)).setKind .none 0).setStatus .deviceException) := by
  unfold takeException at h
  split at h <;> cases h
  · exact .inl ⟨‹_›, rfl⟩
  · exact .inr ⟨‹_›, rfl⟩

/-- The state that a ReadRegisters response with `count` values leaves. -/
def State.withRegisters (s : State) (count : Nat) : State :=
  ({ s with dw := s.dw.writeList 0 (responseValues s count) }.setKind .registers (BitVec.ofNat 8 count)).setStatus .ok

theorem responseValues_length (s : State) (count : Nat) : (responseValues s count).length = count := by
  simp [responseValues]

theorem takeRegisters_next {cnt : Half} (h : takeRegisters cnt s = .next t) (h5 : 5 ≤ s.rxlen.toNat) :
    (s.rxlen.toNat ≠ 5 + 2 * cnt.toNat ∧ t = (s.setKind .none 0).setStatus .countMismatch) ∨
    (s.rxlen.toNat = 5 + 2 * cnt.toNat ∧ t = s.withRegisters cnt.toNat) := by
  unfold takeRegisters at h
  split at h <;> cases h
  · exact .inl ⟨by omega, rfl⟩
  · exact .inr ⟨by omega, rfl⟩

/-- The state after the length and checksum checks of DEC_RESP have passed. -/
def State.withHeader (s : State) : State := (s.setLastCrc (computedCrc s)).setHeader (rxByte s 0) (rxByte s 1)

/-- The eight outcomes of DEC_RESP. -/
theorem execDecResp_next {fe : Byte} {cnt : Half} (h : execDecResp fe cnt s = .next t) :
    (expectationOk fe cnt = false ∧ t = s.setStatus .invalidArgument) ∨
    (expectationOk fe cnt = true ∧
      ((s.rxlen.toNat < 5 ∧ t = (s.setKind .none 0).setStatus .incompleteFrame) ∨
       (5 ≤ s.rxlen.toNat ∧ computedCrc s ≠ receivedCrc s ∧
          t = ((s.setLastCrc (computedCrc s)).setKind .none 0).setStatus .checksumMismatch) ∨
       (5 ≤ s.rxlen.toNat ∧ computedCrc s = receivedCrc s ∧
          ((rxByte s 1 = fe ||| 0x80#8 ∧
              ((s.noresp = some (rxByte s 2) ∧
                  t = ((s.withHeader.setExcCode (rxByte s 2)).setKind .norespAck 0).setStatus .ok) ∨
               (s.noresp ≠ some (rxByte s 2) ∧
                  t = ((s.withHeader.setExcCode (rxByte s 2)).setKind .none 0).setStatus .deviceException))) ∨
           (rxByte s 1 ≠ fe ||| 0x80#8 ∧ rxByte s 1 ≠ fe ∧
              t = (s.withHeader.setKind .none 0).setStatus .unexpectedFunctionCode) ∨
           (rxByte s 1 ≠ fe ||| 0x80#8 ∧ rxByte s 1 = fe ∧ (fe = 0x06#8 ∨ fe = 0x10#8) ∧
              t = (s.withHeader.setKind .writeOk 0).setStatus .ok) ∨
           (rxByte s 1 ≠ fe ||| 0x80#8 ∧ rxByte s 1 = fe ∧ ¬ (fe = 0x06#8 ∨ fe = 0x10#8) ∧
              ((s.rxlen.toNat ≠ 5 + 2 * cnt.toNat ∧ t = (s.withHeader.setKind .none 0).setStatus .countMismatch) ∨
               (s.rxlen.toNat = 5 + 2 * cnt.toNat ∧ t = s.withHeader.withRegisters cnt.toNat))))))) := by
  unfold execDecResp at h
  split at h
  swap
  · cases h
    exact .inl ⟨Bool.eq_false_iff.mpr ‹_›, rfl⟩
  refine .inr ⟨‹_›, ?_⟩
  split at h
  · cases h
    exact .inl ⟨‹_›, rfl⟩
  have h5 : 5 ≤ s.rxlen.toNat := by omega
  split at h
  · cases h
    exact .inr (.inl ⟨h5, ‹_›, rfl⟩)
  refine .inr (.inr ⟨h5, not_not.mp ‹_›, ?_⟩)
  unfold takeResponse at h
  split at h
  · exact .inl ⟨‹_›, takeException_next h⟩
  rename_i hx
  split at h
  · cases h
    exact .inr (.inl ⟨hx, ‹_›, rfl⟩)
  rename_i hf
  split at h
  · cases h
    exact .inr (.inr (.inl ⟨hx, not_not.mp hf, ‹_›, rfl⟩))
  · exact .inr (.inr (.inr ⟨hx, not_not.mp hf, ‹_›, takeRegisters_next h h5⟩))

/-! ### Addresses and 2-bit fields -/

theorem generateAddress_next {base : Half} {axis : Byte} {stride : Nat} (h : generateAddress base axis stride s = .next t) :
    ((axis.toNat < 1 ∨ 6 < axis.toNat ∨ 0xFFFF < base.toNat + (axis.toNat - 1) * stride) ∧
      t = s.setStatus .invalidArgument) ∨
    (1 ≤ axis.toNat ∧ axis.toNat ≤ 6 ∧ ∃ a : Half, a.toNat = base.toNat + (axis.toNat - 1) * stride ∧
      t = { s with res := a }.setStatus .ok) := by
  unfold generateAddress at h
  split at h
  · cases h
    rename_i hk
    exact .inl ⟨by rcases axisSlot?_eq_none.mp hk with hk | hk <;> simp [hk], rfl⟩
  · rename_i k hk
    have hk := axisSlot?_eq_some.mp hk
    have := k.isLt
    have hs : axis.toNat - 1 = k.val := by omega
    split at h <;> cases h
    · rename_i ha
      exact .inl ⟨.inr (.inr (by rw [hs]; exact axisAddress?_eq_none.mp ha)), rfl⟩
    · rename_i a ha
      exact .inr ⟨by omega, by omega, a, by rw [hs]; exact axisAddress?_eq_some.mp ha, rfl⟩

theorem execPackUniform_next {mode : BitVec 2} (h : execPackUniform mode s = .next t) :
    t = { s with res := uniformWord mode }.setStatus .ok := by
  cases h
  rfl

theorem execPackAxis_next {axis : Byte} {mode : BitVec 2} (h : execPackAxis axis mode s = .next t) :
    ((axis.toNat < 1 ∨ 6 < axis.toNat) ∧ t = s.setStatus .invalidArgument) ∨
    ∃ k : Fin 6, axis.toNat = k.val + 1 ∧ t = { s with res := modeInSlot mode k.val }.setStatus .ok := by
  unfold execPackAxis at h
  split at h <;> cases h
  · exact .inl ⟨axisSlot?_eq_none.mp ‹_›, rfl⟩
  · exact .inr ⟨_, axisSlot?_eq_some.mp ‹_›, rfl⟩

theorem execUnpack_next {word : Half} (h : execUnpack word s = .next t) :
    t = { s with axf := axisFields word }.setStatus .ok := by
  cases h
  rfl

theorem execUnpackDw_next {index : Byte} (h : execUnpackDw index s = .next t) :
    (124 < index.toNat ∧ t = s.setStatus .invalidArgument) ∨
    (index.toNat ≤ 124 ∧ t = { s with axf := axisFields (dataWord s index.toNat) }.setStatus .ok) := by
  unfold execUnpackDw at h
  split at h <;> cases h
  · exact .inl ⟨dataIndex?_eq_none.mp ‹_›, rfl⟩
  · rename_i hi
    obtain ⟨rfl, hle⟩ := dataIndex?_eq_some.mp hi
    exact .inr ⟨hle, rfl⟩

/-! ### Calibration and clamp -/

/-- The calibration that six returned registers give. -/
def State.withCalibration (s : State) : State :=
  ({ s with calmax := Axes.ofFn fun k => dataWord s k.val }.setCalValid true).setStatus .ok

theorem execCalLoad_next (h : execCalLoad s = .next t) :
    (s.rcount ≠ 6#8 ∧ t = s.setStatus .calibrationReadError) ∨ (s.rcount = 6#8 ∧ t = s.withCalibration) := by
  unfold execCalLoad at h
  split at h <;> cases h
  · exact .inr ⟨‹_›, rfl⟩
  · exact .inl ⟨‹_›, rfl⟩

theorem execCalClear_next (h : execCalClear s = .next t) : t = (s.setCalValid false).setStatus .ok := by
  cases h
  rfl

theorem execPosSet_next {axis : Byte} {position : Full} (h : execPosSet axis position s = .next t) :
    ((axis.toNat < 1 ∨ 6 < axis.toNat) ∧ t = s.setStatus .invalidArgument) ∨
    ∃ k : Fin 6, axis.toNat = k.val + 1 ∧
      t = { s with posIn := s.posIn.set k position, posTag := s.posTag.set k true }.setStatus .ok := by
  unfold execPosSet at h
  split at h <;> cases h
  · exact .inl ⟨axisSlot?_eq_none.mp ‹_›, rfl⟩
  · exact .inr ⟨_, axisSlot?_eq_some.mp ‹_›, rfl⟩

theorem execRatioSet_next {axis : Byte} {ratio : Half} (h : execRatioSet axis ratio s = .next t) :
    ((axis.toNat < 1 ∨ 6 < axis.toNat ∨ 0x8000 < ratio.toNat) ∧ t = s.setStatus .invalidArgument) ∨
    ∃ k : Fin 6, axis.toNat = k.val + 1 ∧ ratio.toNat ≤ 0x8000 ∧
      t = { s with ratio := s.ratio.set k ratio, ratioTag := s.ratioTag.set k true }.setStatus .ok := by
  unfold execRatioSet at h
  split at h
  · cases h
    exact .inl ⟨by rcases axisSlot?_eq_none.mp ‹_› with hk | hk <;> simp [hk], rfl⟩
  · rename_i k hk
    split at h <;> rename_i hr <;> cases h
    · exact .inr ⟨k, axisSlot?_eq_some.mp hk, ratioOk_iff.mp hr, rfl⟩
    · rw [ratioOk_iff] at hr
      exact .inl ⟨.inr (.inr (by omega)), rfl⟩

/-- The ranges of R111, axis by axis. -/
theorem someRangeEmpty_iff : someRangeEmpty s = true ↔ ∃ k, upperBound s k < 1 := by
  simp only [someRangeEmpty, Axes.anySet_iff, Axes.get_ofFn]
  exact exists_congr fun _ => decide_eq_true_iff

theorem someRangeEmpty_eq_false : someRangeEmpty s = false ↔ ∀ k, 1 ≤ upperBound s k := by
  rw [Bool.eq_false_iff, ne_eq, someRangeEmpty_iff, not_exists]
  exact forall_congr' fun _ => not_lt

theorem upperBound_le (s : State) (k : Fin 6) : upperBound s k ≤ 65525 := by
  have := (s.calmax.get k).isLt
  unfold upperBound Config.margin
  omega

/-- Where every range is legal, a clamped position is the integer `clampv` gives: it fits its register. -/
theorem clampedOut_toInt {p : Fin 6 → Int} {k : Fin 6} (h : 1 ≤ upperBound s k) :
    ((clampedOut s p).get k).toInt = clampv (p k) (upperBound s k) := by
  have hb := upperBound_le s k
  have hr : 1 ≤ clampv (p k) (upperBound s k) ∧ clampv (p k) (upperBound s k) ≤ 65525 := by
    unfold clampv
    split
    · omega
    · split <;> omega
  rw [clampedOut, Axes.get_ofFn, BitVec.toInt_ofInt]
  exact Int.bmod_eq_of_le (by omega) (by omega)

theorem execClamp_next (h : execClamp s = .next t) :
    (calValid s.flags = false ∧ t = ({ s with posOut := Axes.ofFn (positionWord s) }.setUncal true).setStatus .ok) ∨
    (calValid s.flags = true ∧ (∃ k, upperBound s k < 1) ∧ t = s.setStatus .clampRangeEmpty) ∨
    (calValid s.flags = true ∧ (∀ k, 1 ≤ upperBound s k) ∧
      t = ({ s with posOut := clampedOut s fun k => (positionWord s k).toInt }.setUncal false).setStatus .ok) := by
  unfold execClamp at h
  split at h
  · rename_i hc
    split at h <;> rename_i he <;> cases h
    · exact .inr (.inl ⟨hc, someRangeEmpty_iff.mp he, rfl⟩)
    · exact .inr (.inr ⟨hc, someRangeEmpty_eq_false.mp (by simpa using he), rfl⟩)
  · cases h
    exact .inl ⟨Bool.eq_false_iff.mpr ‹_›, rfl⟩

theorem execClampRatio_next (h : execClampRatio s = .next t) :
    (calValid s.flags = false ∧ t = s.setStatus .notCalibrated) ∨
    (calValid s.flags = true ∧ (∃ k, upperBound s k < 1) ∧ t = s.setStatus .clampRangeEmpty) ∨
    (calValid s.flags = true ∧ (∀ k, 1 ≤ upperBound s k) ∧
      t = { s with posOut := clampedOut s fun k => scale (ratioWord s k) (s.calmax.get k) }.setStatus .ok) := by
  unfold execClampRatio at h
  split at h
  · rename_i hc
    split at h <;> rename_i he <;> cases h
    · exact .inr (.inl ⟨hc, someRangeEmpty_iff.mp he, rfl⟩)
    · exact .inr (.inr ⟨hc, someRangeEmpty_eq_false.mp (by simpa using he), rfl⟩)
  · cases h
    exact .inl ⟨Bool.eq_false_iff.mpr ‹_›, rfl⟩

/-! ### A step -/

/-- The four ways a step answers a next state. -/
theorem step_next (h : step s = .next t) :
    (s.pending = [] ∧ t = s) ∨
    (∃ w rest i, s.pending = .command w :: rest ∧ decode w = .command i ∧ exec i (s.takeCommand rest) = .next t) ∨
    (∃ w rest why, s.pending = .command w :: rest ∧ decode w = .illegal why ∧
      t = (s.takeCommand rest).setStatus .illegalCommand) ∨
    ∃ rest, s.pending = .reset :: rest ∧ t = s.takeReset rest := by
  unfold step at h
  split at h
  · cases h
    exact .inl ⟨‹_›, rfl⟩
  · rename_i w rest hp
    unfold execWord at h
    split at h
    · exact .inr (.inl ⟨w, rest, _, hp, ‹_›, h⟩)
    · cases h
      exact .inr (.inr (.inl ⟨w, rest, _, hp, ‹_›, rfl⟩))
  · cases h
    exact .inr (.inr (.inr ⟨_, ‹_›, rfl⟩))

end Sys2Proof.Machine
end

