-- ==== Sys2Proof/Laws/PerInstr.lean ====
section
/-! SUPPORT. Facts about every command as syntax, one lemma per constructor of Instr. Family `FixedBits`: the fixed bits of a
command's word, its opcode and its reserved fields, are those of its row of the opcode table (R52, R54, R61). -/

-- One declaration after another: the package as one text holds too many proofs to elaborate them side by side.
set_option Elab.async false

namespace Sys2Proof.Laws.FixedBits

/-- The encoded word agrees with its opcode's match under its format's mask. -/
def Statement (i : Instr) : Prop := encode i &&& i.opcode.format.mask = i.opcode.matchWord

theorem crcInit : Statement .crcInit := (fixedBits_iff .n _ _).mpr (by simp [encode, Instr.opcode])
theorem crcByte (b : Byte) : Statement (.crcByte b) := (fixedBits_iff .b _ _).mpr (by simp [encode, Instr.opcode])
theorem crcCheck : Statement .crcCheck := (fixedBits_iff .n _ _).mpr (by simp [encode, Instr.opcode])
theorem rxClear : Statement .rxClear := (fixedBits_iff .n _ _).mpr (by simp [encode, Instr.opcode])
theorem rxPush (b : Byte) : Statement (.rxPush b) := (fixedBits_iff .b _ _).mpr (by simp [encode, Instr.opcode])
theorem dwWrite (index : Byte) (value : Half) : Statement (.dwWrite index value) := (fixedBits_iff .i _ _).mpr (by simp [encode, Instr.opcode])
theorem encRead (unit : Byte) (address count : Half) : Statement (.encRead unit address count) := (fixedBits_iff .f _ _).mpr (by simp [encode, Instr.opcode])
theorem encWrite1 (unit : Byte) (address value : Half) : Statement (.encWrite1 unit address value) := (fixedBits_iff .f _ _).mpr (by simp [encode, Instr.opcode])
theorem encWriteN (unit : Byte) (address count : Half) : Statement (.encWriteN unit address count) := (fixedBits_iff .f _ _).mpr (by simp [encode, Instr.opcode])
theorem decResp (fe : Byte) (cnt : Half) : Statement (.decResp fe cnt) := (fixedBits_iff .d _ _).mpr (by simp [encode, Instr.opcode])
theorem addrLinear (base : Half) (axis : Byte) : Statement (.addrLinear base axis) := (fixedBits_iff .g _ _).mpr (by simp [encode, Instr.opcode])
theorem addrForce (base : Half) (axis : Byte) : Statement (.addrForce base axis) := (fixedBits_iff .g _ _).mpr (by simp [encode, Instr.opcode])
theorem packUniform (mode : BitVec 2) : Statement (.packUniform mode) := (fixedBits_iff .mu _ _).mpr (by simp [encode, Instr.opcode, mode_and_reserved])
theorem packAxis (axis : Byte) (mode : BitVec 2) : Statement (.packAxis axis mode) := (fixedBits_iff .ma _ _).mpr (by simp [encode, Instr.opcode, mode_and_reserved])
theorem unpack (word : Half) : Statement (.unpack word) := (fixedBits_iff .u _ _).mpr (by simp [encode, Instr.opcode])
theorem unpackDw (index : Byte) : Statement (.unpackDw index) := (fixedBits_iff .x _ _).mpr (by simp [encode, Instr.opcode])
theorem calLoad : Statement .calLoad := (fixedBits_iff .n _ _).mpr (by simp [encode, Instr.opcode])
theorem calClear : Statement .calClear := (fixedBits_iff .n _ _).mpr (by simp [encode, Instr.opcode])
theorem posSet (axis : Byte) (position : Full) : Statement (.posSet axis position) := (fixedBits_iff .p _ _).mpr (by simp [encode, Instr.opcode])
theorem ratioSet (axis : Byte) (ratio : Half) : Statement (.ratioSet axis ratio) := (fixedBits_iff .i _ _).mpr (by simp [encode, Instr.opcode])
theorem clamp : Statement .clamp := (fixedBits_iff .n _ _).mpr (by simp [encode, Instr.opcode])
theorem clampRatio : Statement .clampRatio := (fixedBits_iff .n _ _).mpr (by simp [encode, Instr.opcode])

end Sys2Proof.Laws.FixedBits
end

