-- ==== Sys2Proof/Laws/ReadPort.lean ====
section
/-! SUPPORT. The read-port map read the other way: the address of each register, and that the map is exactly that. -/

-- One declaration after another: the package as one text holds too many proofs to elaborate them side by side.
set_option Elab.async false

namespace Sys2Proof.Machine

/-- The read-port address of a register (R15). -/
def regAddr : Reg → Nat
  | .status => 0x000
  | .rkind => 0x001
  | .rcount => 0x002
  | .excCode => 0x003
  | .rxUnit => 0x004
  | .rxFc => 0x005
  | .lastCrc => 0x006
  | .crc => 0x007
  | .res => 0x008
  | .flags => 0x009
  | .txlen => 0x00A
  | .rxlen => 0x00B
  | .axf k => 0x011 + k.val
  | .calmax k => 0x021 + k.val
  | .posIn k => 0x031 + k.val
  | .posOut k => 0x041 + k.val
  | .ratio k => 0x051 + k.val
  | .dw i => 0x100 + i.val
  | .txbuf i => 0x200 + i.val
  | .rxbuf i => 0x300 + i.val

theorem scalarAt?_addr {n : Nat} {r : Reg} (h : scalarAt? n = some r) : n = regAddr r := by
  unfold scalarAt? at h
  split at h <;> cases h <;> rfl

/-- The address of a register that the map finds is the one it was found at. -/
theorem regAt?_addr {a : BitVec 12} {r : Reg} (h : regAt? a = some r) : a.toNat = regAddr r := by
  unfold regAt? at h
  repeat' split at h
  all_goals first | exact scalarAt?_addr h | (cases h; simp only [regAddr]; omega)

theorem regAddr_lt (r : Reg) : regAddr r < 4096 := by
  cases r <;> simp only [regAddr] <;> omega

/-- The map finds every register at its address. -/
theorem regAt?_of_addr {a : BitVec 12} {r : Reg} (h : a.toNat = regAddr r) : regAt? a = some r := by
  have key : ∀ n, a.toNat = n → regAt? a = regAt? (BitVec.ofNat 12 n) := by
    rintro n rfl
    simp
  cases r
  case axf k | calmax k | posIn k | posOut k | ratio k =>
    rw [key _ h]
    clear key h
    revert k
    decide
  case dw k | txbuf k | rxbuf k =>
    have := k.isLt
    simp only [regAddr] at h
    unfold regAt?
    repeat rw [dif_neg (by omega)]
    rw [dif_pos (by omega)]
    simp [h]
  all_goals
    rw [key _ h]
    rfl

theorem regAt?_eq_some {a : BitVec 12} {r : Reg} : regAt? a = some r ↔ a.toNat = regAddr r :=
  ⟨regAt?_addr, regAt?_of_addr⟩

theorem readPort_of_addr {s : State} {a : BitVec 12} {r : Reg} (h : a.toNat = regAddr r) : readPort s a = regValue s r := by
  simp only [readPort, regAt?_eq_some.mpr h]

theorem readPort_unmapped {s : State} {a : BitVec 12} (h : ∀ r, a.toNat ≠ regAddr r) : readPort s a = 0#32 := by
  have : regAt? a = none := by
    cases hr : regAt? a with
    | none => rfl
    | some r => exact absurd (regAt?_addr hr) (h r)
  simp only [readPort, this]

/-- Two states show the same at an address if they show the same in the register there. -/
theorem readPort_congr {s t : State} {a : BitVec 12} (h : ∀ r, a.toNat = regAddr r → regValue t r = regValue s r) :
    readPort t a = readPort s a := by
  unfold readPort
  split
  · rename_i r hr
    exact h r (regAt?_addr hr)
  · rfl

end Sys2Proof.Machine
end

