-- ==== Sys2Proof/Tests/Slice0.lean ====
section
/-! SUPPORT. Tests of the model against spec/95_test_vectors.md and the rules' own examples, the smoke tests of WellFormed, and a
witness for the hypotheses of each statement. Every expected value is the spec's. -/

-- One declaration after another: the package as one text holds too many proofs to elaborate them side by side.
set_option Elab.async false

namespace Sys2Proof.Tests

open Sys2Proof.Machine Sys2Proof.Claims

/-! ### Small states -/

/-- The reset state with P_NORESP = none, as the vectors start (95_test_vectors.md). -/
def fresh : State := { State.reset with noresp := none }

/-- `fresh` with a received frame in RXBUF. -/
def rx (frame : List Byte) : State :=
  { fresh with rxbuf := Mem.writeList [] 0 frame, rxlen := BitVec.ofNat 9 frame.length }

/-- `fresh` with staged data words. -/
def words (l : List Half) : State := { fresh with dw := Mem.writeList [] 0 l }

/-- The response of vector DV3. -/
def readResponse : List Byte :=
  [0x01, 0x03, 0x0C, 0x00, 0x0A, 0x00, 0x14, 0x00, 0x1E, 0x00, 0x28, 0x00, 0x32, 0x00, 0x3C, 0x72, 0x71]

/-- Every written tag set. -/
def tags : Axes Bool := ⟨true, true, true, true, true, true⟩

/-- The calibration of program P2. -/
def maxima : Axes Half := ⟨1000, 2000, 3000, 900, 500, 1200⟩

/-- Calibrated as in program P2, with its positions and the ratios of program P7 staged. -/
def calibrated : State :=
  { fresh with
    calmax := maxima, flags := 0b01#2, posIn := ⟨1500, 0, BitVec.ofInt 32 (-5), 500, 490, 1191⟩, posTag := tags,
    ratio := ⟨0x8000, 0x4000, 0x0000, 0x2000, 0x0001, 0x6000⟩, ratioTag := tags }

/-- The same with the maxima of vector L2.6 V6: the range of axis 2 is empty, that of axis 1 is a single point. -/
def emptyRange : State := { calibrated with calmax := ⟨11, 10, 65535, 1, 0, 12⟩ }

/-- A state that a command word has been issued to. -/
def issued (w : CommandWord) (s : State) : State := { s with pending := [.command w] }

/-- What a function reads of the next state, if there is one. -/
def after {α : Type} (r : Result) (f : State → α) : Option α :=
  match r with
  | .next t => some (f t)
  | .fault _ => none
  | .refused _ => none

/-! ### WellFormed refuses an ill-formed term for each check (R57, R91, R97, R98) -/

theorem test_wf_axis_zero : (Instr.packAxis 0 1).wellFormed = false := by decide
theorem test_wf_axis_seven : (Instr.posSet 7 1).wellFormed = false := by decide
theorem test_wf_axis_ok : (Instr.posSet 1 1).wellFormed = true ∧ (Instr.posSet 6 1).wellFormed = true := by decide
theorem test_wf_index : (Instr.dwWrite 125 0).wellFormed = false ∧ (Instr.unpackDw 125).wellFormed = false := by decide
theorem test_wf_index_ok : (Instr.dwWrite 124 0).wellFormed = true := by decide
theorem test_wf_unit :
    (Instr.encRead 0 0 1).wellFormed = false ∧ (Instr.encWrite1 0 0 0).wellFormed = false ∧
      (Instr.encWriteN 0 0 1).wellFormed = false := by decide
theorem test_wf_read_count :
    (Instr.encRead 1 0 0).wellFormed = false ∧ (Instr.encRead 1 0 126).wellFormed = false ∧
      (Instr.encRead 1 0 125).wellFormed = true := by decide
theorem test_wf_write_count :
    (Instr.encWriteN 1 0 0).wellFormed = false ∧ (Instr.encWriteN 1 0 124).wellFormed = false ∧
      (Instr.encWriteN 1 0 123).wellFormed = true := by decide
theorem test_wf_function :
    (Instr.decResp 0x04 1).wellFormed = false ∧ (Instr.decResp 0x83 1).wellFormed = false ∧
      (Instr.decResp 0x06 0xFFFF).wellFormed = true := by decide
theorem test_wf_response_count : (Instr.decResp 0x03 0).wellFormed = false ∧ (Instr.decResp 0x03 126).wellFormed = false := by
  decide
theorem test_wf_address :
    (Instr.addrLinear 0xFFFB 6).wellFormed = false ∧ (Instr.addrLinear 0xFFFA 6).wellFormed = true ∧
      (Instr.addrForce 0xFFB0 6).wellFormed = false ∧ (Instr.addrForce 0xFFAF 6).wellFormed = true := by decide
theorem test_wf_ratio : (Instr.ratioSet 1 0x8001).wellFormed = false ∧ (Instr.ratioSet 1 0x8000).wellFormed = true := by decide

/-! ### Every constructor's word, written from R51, R52 and R54 (95_test_vectors.md L2, L3) -/

theorem test_decode_crc_family :
    decode 0x0100000000000000#64 = .command .crcInit ∧ decode 0x0231000000000000#64 = .command (.crcByte 0x31) ∧
      decode 0x0300000000000000#64 = .command .crcCheck := by decide

theorem test_decode_buffer_family :
    decode 0x1000000000000000#64 = .command .rxClear ∧ decode 0x11AA000000000000#64 = .command (.rxPush 0xAA) ∧
      decode 0x1201000001020000#64 = .command (.dwWrite 1 0x0102) := by decide

theorem test_decode_encoder_family :
    decode 0x2001023000060000#64 = .command (.encRead 1 0x0230 6) ∧
      decode 0x2101050100010000#64 = .command (.encWrite1 1 0x0501 1) ∧
      decode 0x2201004000020000#64 = .command (.encWriteN 1 0x0040 2) := by decide

theorem test_decode_decoder_family : decode 0x3003000000060000#64 = .command (.decResp 0x03 6) := by decide

theorem test_decode_register_map_family :
    decode 0x4006023000000000#64 = .command (.addrLinear 0x0230 6) ∧
      decode 0x4103030000000000#64 = .command (.addrForce 0x0300 3) ∧
      decode 0x4200000000000002#64 = .command (.packUniform 2) ∧
      decode 0x4303000000000001#64 = .command (.packAxis 3 1) ∧
      decode 0x4400092400000000#64 = .command (.unpack 0x0924) ∧
      decode 0x4507000000000000#64 = .command (.unpackDw 7) := by decide

theorem test_decode_clamp_family :
    decode 0x5000000000000000#64 = .command .calLoad ∧ decode 0x5100000000000000#64 = .command .calClear ∧
      decode 0x52030000FFFFFFFB#64 = .command (.posSet 3 (BitVec.ofInt 32 (-5))) ∧
      decode 0x5306000060000000#64 = .command (.ratioSet 6 0x6000) ∧
      decode 0x5400000000000000#64 = .command .clamp ∧ decode 0x5500000000000000#64 = .command .clampRatio := by decide

theorem test_decode_illegal :
    decode 0x0400000000000000#64 = .illegal .reservedOpcode ∧ decode 0x5600000000000000#64 = .illegal .reservedOpcode ∧
      decode 0xFF00000000000000#64 = .illegal .reservedOpcode ∧ decode 0x1100000000000100#64 = .illegal .reservedField ∧
      decode 0x3003000100060000#64 = .illegal .reservedField ∧ decode 0x1200000100000000#64 = .illegal .reservedField := by
  decide

/-! ### The checksum commands (L2.1) -/

theorem test_crc_step : crcStep 0xFFFF 0x80 = 0xE0BE ∧ crcStep 0x4B37 0x00 = 0xD60A ∧ crcStep 0xFFFF 0xFF = 0x00FF := by decide

theorem test_crc16_check_value : crc16 [0x31, 0x32, 0x33, 0x34, 0x35, 0x36, 0x37, 0x38, 0x39] = 0x4B37 := by decide +kernel

theorem test_crcInit : after (exec .crcInit { fresh with crc := 0x1234 }) State.crc = some 0xFFFF := by decide

theorem test_crcByte_from_reset : after (exec (.crcByte 0x01) fresh) (fun t => (t.crc, t.lastCrc)) = some (0x807E, 0) := by
  decide +kernel

theorem test_crcCheck_ok :
    after (exec .crcCheck (rx [0x01, 0x86, 0x02, 0xC3, 0xA1])) (fun t => (t.status, t.lastCrc)) = some (0x00, 0xA1C3) := by
  decide +kernel

theorem test_crcCheck_short :
    after (exec .crcCheck (rx [0x01, 0x03, 0x40, 0x21])) (fun t => (t.status, t.lastCrc)) = some (0x03, 0x0000) := by
  decide +kernel

/-! ### The buffers and data words (L2.2) -/

theorem test_rxClear_keeps_bytes :
    after (exec .rxClear (rx readResponse)) (fun t => (t.rxlen, t.rxbuf.read 16)) = some (0, some 0x71) := by decide +kernel

theorem test_rxPush_last :
    after (exec (.rxPush 0xAA) { fresh with rxlen := 255#9 }) (fun t => (t.status, t.rxlen, t.rxbuf.read 255)) =
      some (0x00, 256, some 0xAA) := by decide +kernel

theorem test_rxPush_overflow :
    after (exec (.rxPush 0xAA) { fresh with rxlen := 256#9 }) (fun t => (t.status, t.rxlen, t.rxbuf)) = some (0x0A, 256, []) := by
  decide +kernel

theorem test_dwWrite_last :
    after (exec (.dwWrite 124 0xFFFF) fresh) (fun t => (t.status, t.dw)) = some (0x00, [(124, 0xFFFF)]) := by decide +kernel

theorem test_dwWrite_above :
    after (exec (.dwWrite 125 0x0000) fresh) (fun t => (t.status, t.dw)) = some (0x02, []) := by decide +kernel

/-! ### The encoder (L2.3) -/

theorem test_encRead_step :
    after (step (fresh.withFetchWord 64 0x2001023000060000)) (fun t => (t.txbuf.map Prod.snd, t.txlen, t.lastCrc)) =
      some ([0x01, 0x03, 0x02, 0x30, 0x00, 0x06, 0xC4, 0x7F], 8, 0x7FC4) := by decide +kernel

theorem test_encRead_count : after (exec (.encRead 1 0 126) fresh) (fun t => (t.status, t.txbuf)) = some (0x02, []) := by
  decide +kernel

theorem test_encWrite1 :
    after (exec (.encWrite1 0x11 0xFFFF 0xFFFF) fresh) (fun t => (t.status, t.txbuf.map Prod.snd)) =
      some (0x00, [0x11, 0x06, 0xFF, 0xFF, 0xFF, 0xFF, 0x8A, 0xCE]) := by decide +kernel

theorem test_encWriteN :
    after (exec (.encWriteN 1 0x0040 2) (words [0x000A, 0x0102])) (fun t => (t.txbuf.map Prod.snd, t.txlen)) =
      some ([0x01, 0x10, 0x00, 0x40, 0x00, 0x02, 0x04, 0x00, 0x0A, 0x01, 0x02, 0x57, 0xCC], 13) := by decide +kernel

/-- Words never written: the parts of the frame that do not come from them are as R79 says. -/
theorem test_encWriteN_unwritten :
    after (exec (.encWriteN 1 0x0000 2) fresh)
        (fun t => (t.status, t.txlen, (t.txbuf.map Prod.snd).take 7, t.dw)) =
      some (0x00, 13, [0x01, 0x10, 0x00, 0x00, 0x00, 0x02, 0x04], []) := by decide +kernel

theorem test_guard_encWriteN :
    untaggedRead? (.encWriteN 1 0x0000 2) fresh = some .dataWord ∧ untaggedRead? (.encWriteN 1 0x0000 124) fresh = none := by decide

/-! ### The decoder (L2.4) -/

theorem test_decResp_registers :
    after (exec (.decResp 0x03 6) (rx readResponse)) (fun t => (t.status, t.rkind, t.rcount, t.dw.map Prod.snd)) =
      some (0x00, 1, 6, [10, 20, 30, 40, 50, 60]) := by decide +kernel

theorem test_decResp_exception :
    after (exec (.decResp 0x06 0) (rx [0x01, 0x86, 0x02, 0xC3, 0xA1]))
        (fun t => (t.status, t.rkind, t.excCode, t.rxFc, t.lastCrc)) =
      some (0x06, 0, 0x02, 0x86, 0xA1C3) := by decide +kernel

/-! ### Addresses and 2-bit fields (L2.5) -/

theorem test_addrLinear_top : after (exec (.addrLinear 0xFFFA 6) fresh) State.res = some 0xFFFF := by decide +kernel
theorem test_addrLinear_overflow :
    after (exec (.addrLinear 0xFFFB 6) fresh) (fun t => (t.status, t.res)) = some (0x02, 0) := by decide +kernel
theorem test_addrForce : after (exec (.addrForce 0x0300 3) fresh) State.res = some 0x0320 := by decide +kernel
theorem test_addrForce_overflow : after (exec (.addrForce 0xFFB0 6) fresh) State.status = some 0x02 := by decide +kernel
theorem test_packUniform : after (exec (.packUniform 2) fresh) State.res = some 0x0AAA := by decide +kernel
theorem test_packAxis : after (exec (.packAxis 6 3) fresh) State.res = some 0x0C00 := by decide +kernel
theorem test_packAxis_axis : after (exec (.packAxis 7 1) fresh) (fun t => (t.status, t.res)) = some (0x02, 0) := by
  decide +kernel
theorem test_unpack : after (exec (.unpack 0x1234) fresh) State.axf = some ⟨0, 1, 3, 0, 2, 0⟩ := by decide +kernel
theorem test_unpackDw :
    after (exec (.unpackDw 1) (words [0x0000, 0x0924])) State.axf = some ⟨0, 1, 2, 0, 1, 2⟩ := by decide +kernel
theorem test_unpackDw_unwritten : after (exec (.unpackDw 0) fresh) (fun t => (t.status, t.dw)) = some (0x00, []) := by decide +kernel

theorem test_guard_unpackDw : untaggedRead? (.unpackDw 0) fresh = some .dataWord ∧ untaggedRead? (.unpackDw 125) fresh = none := by
  decide

/-! ### Calibration and clamp (L2.6) -/

theorem test_calLoad :
    after (exec .calLoad { words [1000, 2000, 3000, 900, 500, 1200] with rcount := 6 }) (fun t => (t.calmax, t.flags)) =
      some (maxima, 0b01) := by decide +kernel
theorem test_calLoad_staged_only :
    after (exec .calLoad (words [1, 2, 3, 4, 5, 6])) (fun t => (t.status, t.flags)) = some (0x08, 0b00) := by decide +kernel
theorem test_calClear : after (exec .calClear calibrated) (fun t => (t.flags, t.calmax)) = some (0b00, maxima) := by
  decide +kernel
theorem test_posSet :
    after (exec (.posSet 3 (BitVec.ofInt 32 (-5))) fresh) (fun t => (readPort t 0x033, t.posTag.get 2, t.posTag.get 3)) =
      some (0xFFFFFFFB, true, false) := by decide +kernel
theorem test_ratioSet : after (exec (.ratioSet 2 0x8000) fresh) (fun t => (t.status, t.ratio.get 1)) = some (0x00, 0x8000) := by
  decide +kernel
theorem test_ratioSet_above : after (exec (.ratioSet 1 0x8001) fresh) (fun t => (t.status, t.ratioTag.get 0)) = some (0x02, false) := by
  decide +kernel
theorem test_clamp :
    after (exec .clamp calibrated) (fun t => (t.posOut, t.flags)) = some (⟨990, 1, 1, 500, 490, 1190⟩, 0b01) := by
  decide +kernel
theorem test_clamp_extremes :
    after (exec .clamp { calibrated with
        calmax := ⟨1000, 1000, 1000, 1000, 1000, 1000⟩,
        posIn := ⟨990, 991, 1, 0, BitVec.ofInt 32 (-2147483648), 2147483647⟩ }) State.posOut =
      some ⟨990, 990, 1, 1, 1, 990⟩ := by decide +kernel
theorem test_clamp_unwritten : after (exec .clamp fresh) (fun t => (t.status, t.flags)) = some (0x00, 0b10) := by decide +kernel
theorem test_clampRatio :
    after (exec .clampRatio calibrated) State.posOut = some ⟨990, 1000, 1, 225, 1, 900⟩ := by decide +kernel
theorem test_clampRatio_extremes :
    after (exec .clampRatio { calibrated with
        calmax := ⟨65535, 65535, 65535, 65535, 65535, 65535⟩,
        ratio := ⟨0x8000, 0x7FFF, 0x0001, 0x0000, 0x4000, 0x7FF0⟩ }) State.posOut =
      some ⟨65525, 65525, 1, 1, 32767, 65503⟩ := by decide +kernel

/-- Vector V12, and R118's order for CLAMP_RATIO (program P9, step 8). -/
theorem test_guard_clamp :
    untaggedRead? .clamp fresh = some .position ∧ untaggedRead? .clamp calibrated = none ∧
      untaggedRead? .clampRatio fresh = none ∧ untaggedRead? .clampRatio { fresh with flags := 0b01 } = some .ratio := by decide

/-! ### The assembler (R59 to R61) -/

theorem test_assemble_lines :
    (assembleLine "ENC_READ 1, 0x0230, 6").map (List.map encode) = some [0x2001023000060000#64] ∧
      (assembleLine " POS_SET 3,-5 ; a comment").map (List.map encode) = some [0x52030000FFFFFFFB#64] ∧
      (assembleLine "DEC_RESP 0x10").map (List.map encode) = some [0x3010000000000000#64] ∧
      assembleLine "; nothing" = some [] := by decide +kernel

theorem test_assemble_refused :
    assembleLine "CRC_BYTE 0x100" = none ∧ assembleLine "PACK_UNIFORM 4" = none ∧ assembleLine "DEC_RESP 0x03" = none ∧
      assembleLine "CLAMP 1" = none ∧ assembleLine "NO_SUCH 1" = none := by decide +kernel

theorem test_pseudo_write_list :
    (assembleLine "ENC_WRITEN_LIST 1, 0x0040, 0x000A, 0x0102").map (List.map encode) =
      some [0x12000000000A0000#64, 0x1201000001020000#64, 0x2201004000020000#64] := by decide +kernel

/-! ### Witnesses: the hypotheses of each statement are met together -/

/-- A state as it stands after vector DV3, with one word staged above the returned ones and a frame in TXBUF: it has the
invariant, and its frame is valid. -/
def busy : State :=
  { rx readResponse with
    rkind := 1, rcount := 6, lastCrc := 0x7FC4, rxUnit := 1, rxFc := 3,
    dw := [(0, 10), (1, 20), (2, 30), (3, 40), (4, 50), (5, 60), (124, 0xFFFF)],
    txbuf := Mem.writeList [] 0 [0x01, 0x03, 0x02, 0x30, 0x00, 0x06, 0xC4, 0x7F], txlen := 8, ratio := calibrated.ratio }

theorem busy_inv : busy.Inv where
  txWf := by decide +kernel
  txRange := by decide +kernel
  rxWf := by decide +kernel
  rxRange := by decide +kernel
  dwWf := by decide +kernel
  dwRange := by decide +kernel
  txLen := by decide +kernel
  txFilled := by decide +kernel
  rxLen := by decide +kernel
  rxFilled := by decide +kernel
  statusLegal := by decide +kernel
  kindLegal := by decide +kernel
  countLegal := by decide +kernel
  kindCount := by decide +kernel
  countWritten := by decide +kernel
  ratioLegal := by decide +kernel

theorem witness_StepKeepsInvariant : ∃ s t, s.Inv ∧ step s = .next t := ⟨busy, _, busy_inv, rfl⟩

theorem witness_StepKeepsTransmitFrameValid : ∃ s t, s.TxFrameValid ∧ s.txlen = 8#9 ∧ step s = .next t :=
  ⟨busy, _, .inr ⟨by decide +kernel, .inl (by decide +kernel), by decide +kernel⟩, by decide +kernel, rfl⟩

theorem witness_EncodeOfDecode : ∃ w i, decode w = .command i :=
  ⟨0x4307000000000002#64, .packAxis 7 2, by decide⟩

theorem witness_DecodeIsTotal_command : ∃ (w : CommandWord) (op : Opcode), w &&& (tableRow op).1 = (tableRow op).2 :=
  ⟨0x2001023000060000#64, .encRead, by decide⟩

theorem witness_DecodeIsTotal_illegal : ∃ w : CommandWord, ¬ InTable w := by
  refine ⟨0x0100000000000001#64, ?_⟩
  rintro ⟨op, h⟩
  revert h
  cases op <;> decide

theorem witness_ReservedOpcodesAreIllegal :
    decode 0x0400000000000000#64 = .illegal .reservedOpcode ∧ decode 0x0300000000000000#64 ≠ .illegal .reservedOpcode ∧
      decode 0x5600000000000000#64 = .illegal .reservedOpcode ∧ decode 0x5500000000000000#64 ≠ .illegal .reservedOpcode := by
  decide

theorem witness_StepRunsDecodedCommand :
    (∃ (s : State) (w : CommandWord) (rest : List HostInput) (i : Instr),
      s.pending = .command w :: rest ∧ decode w = .command i) ∧
    (∃ (s : State) (w : CommandWord) (rest : List HostInput) (why : Illegal),
      s.pending = .command w :: rest ∧ decode w = .illegal why) ∧ ∃ s : State, s.pending = [] :=
  ⟨⟨issued 0x5400000000000000#64 fresh, _, [], .clamp, rfl, by decide⟩,
    ⟨issued 0x0000000000000000#64 fresh, _, [], .reservedOpcode, rfl, by decide⟩, fresh, rfl⟩

theorem witness_CommandIndexAdvancesByOne : ∃ (s t : State) (w : CommandWord) (rest : List HostInput), s.pending = .command w :: rest ∧ step s = .next t :=
  ⟨issued 0x0000000000000000#64 fresh, _, _, [], rfl, rfl⟩

theorem witness_ResetRestoresEveryRegister : ∃ (s : State) (rest : List HostInput), s.pending = .reset :: rest :=
  ⟨{ calibrated with pending := [.reset] }, [], rfl⟩

theorem witness_OutOfRangeOperandFails :
    (Instr.ratioSet 1 0x8001).wellFormed = false ∧
      (∃ (i : Instr) (s t : State), i.wellFormed = true ∧ exec i s = .next t) ∧
      ∃ w : CommandWord, ¬ InTable w :=
  ⟨by decide, ⟨.ratioSet 1 0x8000, fresh, _, by decide, rfl⟩, witness_DecodeIsTotal_illegal⟩

theorem witness_StatusCodesOfEachCommand : ∃ (i : Instr) (s t : State), exec i s = .next t := ⟨.clamp, calibrated, _, rfl⟩

/-- Each of the details that R114 lists occurs. -/
theorem witness_FailureChangesOnlyDetails :
    after (exec .crcCheck (rx [1, 2, 3, 4, 5])) State.status = some 0x04 ∧
      after (exec (.decResp 0x03 1) (rx [])) State.status = some 0x03 ∧
      after (exec (.decResp 0x03 1) (rx [1, 2, 3, 4, 5])) State.status = some 0x04 ∧
      after (exec (.decResp 0x03 1) (rx [0x01, 0x04, 0x02, 0x00, 0x01, 0x78, 0xF0])) State.status = some 0x05 ∧
      after (exec (.decResp 0x03 1) (rx [0x01, 0x83, 0x02, 0xC0, 0xF1])) State.status = some 0x06 ∧
      after (exec (.decResp 0x03 5) (rx readResponse)) State.status = some 0x07 ∧
      after (exec .clamp emptyRange) State.status = some 0x0B := by decide +kernel

theorem witness_EveryCommandCompletes : busy.Inv ∧ Staged (.unpackDw 124) busy ∧ Staged (.encWriteN 1 0 6) busy := by
  refine ⟨busy_inv, ?_⟩
  simp only [Staged]
  decide +kernel

/-- Where staging begins and ends. -/
theorem witness_Staged :
    Staged .clamp calibrated ∧ Staged (.encWriteN 1 0 123) (words (List.replicate 123 0)) ∧ Staged (.encWriteN 1 0 124) fresh ∧
      ¬ Staged .clamp fresh ∧ ¬ Staged .clampRatio { fresh with flags := 0b01#2 } ∧ Staged .clampRatio fresh ∧
      ¬ Staged (.unpackDw 124) fresh ∧ Staged (.unpackDw 125) fresh ∧
      ¬ Staged (.encWriteN 1 0 2) (words [7]) := by
  simp only [Staged]
  decide +kernel

theorem witness_CrcCheckValidatesFrame :
    (rx [1, 2, 3, 4]).rxlen.toNat < 5 ∧ (5 ≤ (rx [1, 2, 3, 4, 5]).rxlen.toNat ∧
      calcCrc (rx [1, 2, 3, 4, 5]) ≠ recvCrc (rx [1, 2, 3, 4, 5])) ∧ FrameGood (rx [0x01, 0x86, 0x02, 0xC3, 0xA1]) := by
  unfold FrameGood
  decide +kernel

theorem witness_FlippedChecksumBitIsCaught :
    ∃ (s : State) (i bit : Nat) (fe : Byte) (cnt : Half),
      exec .crcCheck s = .next { s with lastCrc := calcCrc s, status := 0x00#8 } ∧ 5 ≤ s.rxlen.toNat ∧
        (i = s.rxlen.toNat - 2 ∨ i = s.rxlen.toNat - 1) ∧ bit < 8 ∧ ExpectOk fe cnt := by
  have passes : ∀ s : State, ¬ s.rxlen.toNat < 5 → computedCrc s = receivedCrc s →
      exec .crcCheck s = .next { s with lastCrc := calcCrc s, status := 0x00#8 } := by
    intro s h5 h
    show execCrcCheck s = _
    unfold execCrcCheck
    rw [if_neg h5, if_neg (not_not.mpr h)]
    rfl
  exact ⟨rx [0x01, 0x86, 0x02, 0xC3, 0xA1], 4, 7, 0x06#8, 0, passes _ (by decide) (by decide +kernel), by decide, by decide,
    by decide, .inr (.inl rfl)⟩

theorem witness_OnlyStreamingCommandsUseCrc : Instr.clamp.opcode ≠ .crcInit ∧ Instr.clamp.opcode ≠ .crcByte := by decide

theorem witness_RxPushAppendsByte :
    ({ fresh with rxlen := 256#9 } : State).rxlen.toNat = 256 ∧ ({ fresh with rxlen := 255#9 } : State).rxlen.toNat < 256 := by
  decide

theorem witness_DwWriteStoresWord : 124 < (125#8).toNat ∧ (124#8).toNat ≤ 124 := by decide

/-- A receive buffer that agrees below RXLEN and differs above it. -/
theorem witness_BytesAboveRxlenAreNeverRead :
    Instr.crcCheck.opcode ≠ .rxPush ∧ (∀ j, j < (rx readResponse).rxlen.toNat →
      Mem.read ((rx readResponse).rxbuf.write 17 0xFF) j = (rx readResponse).rxbuf.read j) ∧
      (rx readResponse).rxbuf.write 17 0xFF ≠ (rx readResponse).rxbuf := by decide +kernel

/-- The premises of `EncodedAs`, for every opcode: a word with the fixed bits right, and one with every reserved bit set. -/
theorem witness_EncodedAs (op : Opcode) :
    op.matchWord.extractLsb' 56 8 = op.code ∧ op.matchWord &&& op.format.mask = op.code.setWidth 64 <<< 56 ∧
      (op.matchWord ||| op.format.mask &&& 0x00FFFFFFFFFFFFFF#64).extractLsb' 56 8 = op.code ∧
      (op.matchWord ||| op.format.mask &&& 0x00FFFFFFFFFFFFFF#64) &&& op.format.mask ≠ op.code.setWidth 64 <<< 56 := by
  cases op <;> decide

theorem witness_EncReadBuildsRequest :
    126 > 125 ∧ (126#16).toNat = 126 ∧ (0xFF#8 ≠ 0#8 ∧ 1 ≤ (125#16).toNat ∧ (125#16).toNat ≤ 125) := by decide

theorem witness_EncWrite1BuildsRequest : (255#8 : Byte) ≠ 0#8 := by decide

theorem witness_EncWriteNBuildsRequest :
    (1#8 ≠ 0#8 ∧ 1 ≤ (2#16).toNat ∧ (2#16).toNat ≤ 123) ∧
      ([0x000A#16, 0x0102#16].length = (2#16).toNat ∧
        ∀ j (h : j < [0x000A#16, 0x0102#16].length), [0x000A#16, 0x0102#16][j] = dwWord (words [0x000A, 0x0102]) j) := by
  decide +kernel

/-- The same with a word never written, whatever it holds. -/
theorem witness_EncWriteNBuildsRequest_unwritten :
    (words [7]).dw.read 1 = none ∧ [7#16, dwWord (words [7]) 1].length = (2#16).toNat ∧
      ∀ j (h : j < [7#16, dwWord (words [7]) 1].length), [7#16, dwWord (words [7]) 1][j] = dwWord (words [7]) j := by
  refine ⟨by decide, rfl, fun j h => ?_⟩
  match j, h with
  | 0, _ => rfl
  | 1, _ => rfl

theorem witness_DecRespChecksOperands :
    ¬ ExpectOk 0x03 0 ∧ ¬ ExpectOk 0x03 126 ∧ ¬ ExpectOk 0x83 1 ∧ ExpectOk 0x03 125 ∧ ExpectOk 0x10 0xFFFF := by
  unfold ExpectOk
  decide

theorem witness_DecRespRejectsShortFrame : ExpectOk 0x03 1 ∧ (rx [0x01, 0x03, 0x40, 0x21]).rxlen.toNat < 5 := by
  unfold ExpectOk
  decide +kernel

theorem witness_DecRespRejectsBadChecksum :
    ExpectOk 0x03 1 ∧ 5 ≤ (rx [1, 2, 3, 4, 5]).rxlen.toNat ∧ calcCrc (rx [1, 2, 3, 4, 5]) ≠ recvCrc (rx [1, 2, 3, 4, 5]) := by
  unfold ExpectOk
  decide +kernel

/-- Vector DV13: 0x86 is not 0x83. -/
theorem witness_DecRespRejectsUnexpectedCode :
    ExpectOk 0x03 1 ∧ FrameGood (rx [0x01, 0x86, 0x02, 0xC3, 0xA1]) ∧ rxByte (rx [0x01, 0x86, 0x02, 0xC3, 0xA1]) 1 ≠ 0x03 ∧
      rxByte (rx [0x01, 0x86, 0x02, 0xC3, 0xA1]) 1 ≠ BitVec.ofNat 8 ((0x03#8).toNat + 0x80) := by
  unfold ExpectOk FrameGood
  decide +kernel

/-- Vectors DV14 and DV15. -/
theorem witness_DecRespTakesException :
    ExpectOk 0x06 0 ∧ FrameGood (rx [0x01, 0x86, 0x02, 0xC3, 0xA1]) ∧
      rxByte (rx [0x01, 0x86, 0x02, 0xC3, 0xA1]) 1 = BitVec.ofNat 8 ((0x06#8).toNat + 0x80) ∧
      (rx [0x01, 0x86, 0x02, 0xC3, 0xA1]).noresp ≠ some (rxByte (rx [0x01, 0x86, 0x02, 0xC3, 0xA1]) 2) ∧
      ({ rx [0x01, 0x86, 0x02, 0xC3, 0xA1] with noresp := some 0x02 } : State).noresp =
        some (rxByte { rx [0x01, 0x86, 0x02, 0xC3, 0xA1] with noresp := some 0x02 } 2) := by
  unfold ExpectOk FrameGood
  decide +kernel

/-- Vector DV20. -/
theorem witness_DecRespAcceptsWriteResponse :
    FrameGood (rx [0x01, 0x06, 0x00, 0x23, 0xA0]) ∧ rxByte (rx [0x01, 0x06, 0x00, 0x23, 0xA0]) 1 = 0x06 := by
  unfold FrameGood
  decide +kernel

/-- Vectors DV3 and DV6. -/
theorem witness_DecRespReturnsRegisters :
    FrameGood (rx readResponse) ∧ rxByte (rx readResponse) 1 = 0x03 ∧
      (rx readResponse).rxlen.toNat = 5 + 2 * (6#16).toNat ∧ (rx readResponse).rxlen.toNat ≠ 5 + 2 * (5#16).toNat := by
  unfold FrameGood
  decide +kernel

theorem witness_ReadRegistersRoundTrip :
    1#8 ≠ 0#8 ∧ 1 ≤ (List.replicate 125 7#16).length ∧ (List.replicate 125 7#16).length ≤ 125 := by decide +kernel

theorem witness_AddrLinearAddsAxisSlot :
    0xFFFF < (0xFFFB#16).toNat + ((6#8).toNat - 1) ∧ (0xFFFA#16).toNat + ((6#8).toNat - 1) ≤ 0xFFFF ∧
      1 ≤ (6#8).toNat ∧ (6#8).toNat ≤ 6 ∧ 6 < (7#8).toNat := by decide

theorem witness_AddrForceAddsSixteenPerSlot :
    0xFFFF < (0xFFB0#16).toNat + ((6#8).toNat - 1) * 16 ∧ (0xFFAF#16).toNat + ((6#8).toNat - 1) * 16 ≤ 0xFFFF ∧
      1 ≤ (6#8).toNat ∧ (6#8).toNat ≤ 6 := by decide

theorem witness_PackAxisFillsOneSlot : (0#8).toNat < 1 ∧ 1 ≤ (1#8).toNat ∧ (1#8).toNat ≤ 6 := by decide

theorem witness_UnpackSplitsSixFields :
    (∃ s t u : State, exec (.packUniform 2) s = .next t ∧ exec (.unpack t.res) t = .next u) ∧
      ∃ s t u : State, 1 ≤ (6#8).toNat ∧ (6#8).toNat ≤ 6 ∧ exec (.packAxis 6 3) s = .next t ∧ exec (.unpack t.res) t = .next u :=
  ⟨⟨fresh, _, _, rfl, rfl⟩, fresh, _, _, by decide, by decide, rfl, rfl⟩

theorem witness_UnpackDwSplitsDataWord :
    124 < (125#8).toNat ∧ (124#8).toNat ≤ 124 ∧ fresh.dw.read (124#8).toNat = none ∧
      busy.dw.read (124#8).toNat = some 0xFFFF := by decide +kernel

theorem witness_CalLoadStoresSixMaxima : fresh.rcount ≠ 6#8 ∧ busy.rcount = 6#8 ∧ busy.dw.read 5 = some 60 := by
  decide +kernel

theorem witness_PosSetStagesPosition : 6 < (7#8).toNat ∧ 1 ≤ (6#8).toNat ∧ (6#8).toNat ≤ 6 := by decide

theorem witness_RatioSetStagesRatio :
    0x8000 < (0x8001#16).toNat ∧ 1 ≤ (1#8).toNat ∧ (1#8).toNat ≤ 6 ∧ (0x8000#16).toNat ≤ 0x8000 := by decide

/-- Every clause of CLAMP: a position never written, uncalibrated, an empty range, and ranges that reach down to a single point. -/
theorem witness_ClampBoundsPositions :
    fresh.posTag.get 0 = false ∧ (∀ k, calibrated.posTag.get k = true) ∧ ({ calibrated with flags := 0 } : State).flags.getLsbD 0 = false ∧
      calibrated.flags.getLsbD 0 = true ∧ bound emptyRange 1 < 1 ∧ bound emptyRange 0 = 1 ∧ (∀ k, 1 ≤ bound calibrated k) := by
  decide +kernel

theorem witness_ClampRatioScalesAndBounds :
    fresh.flags.getLsbD 0 = false ∧ calibrated.flags.getLsbD 0 = true ∧
      ({ calibrated with ratioTag := { tags with a6 := false } } : State).ratioTag.get 5 = false ∧
      (∀ k, calibrated.ratioTag.get k = true) ∧ bound emptyRange 1 < 1 ∧ (∀ k, 1 ≤ bound calibrated k) := by
  decide +kernel

theorem witness_ClampedPositionsStayInRange :
    after (exec .clamp calibrated) State.status = some 0x00 ∧ after (exec .clampRatio calibrated) State.status = some 0x00 ∧
      calibrated.flags.getLsbD 0 = true := by decide +kernel

theorem witness_ScaleTruncates : (0x8000#16).toNat ≤ 0x8000 ∧ scale 0x7FFF 65535 = 65533 ∧ scale 0x2000 900 = 225 := by
  decide +kernel

theorem witness_FlagsHaveTheirWriters :
    after (exec .calLoad busy) State.status = some 0x00 ∧ after (exec .calLoad fresh) State.status = some 0x08 ∧
      after (exec .calClear calibrated) State.status = some 0x00 ∧ after (exec .clamp calibrated) State.status = some 0x00 ∧
      after (exec .clamp emptyRange) State.status = some 0x0B ∧ after (exec .rxClear fresh) State.status = some 0x00 := by
  decide +kernel

theorem witness_UncalibratedMaximaAreNeverRead :
    Instr.clamp ≠ .calLoad ∧ fresh.flags.getLsbD 0 = false ∧ busy.rcount = 6#8 ∧ ∃ t, exec .clampRatio fresh = .next t :=
  ⟨by decide, by decide, by decide, _, rfl⟩

theorem witness_ReadPortMap :
    calibrated.posTag.get 5 = true ∧ calibrated.ratioTag.get 5 = true ∧ busy.dw.read 124 = some 0xFFFF ∧
      busy.txbuf.read 7 = some 0x7F ∧ busy.rxbuf.read 16 = some 0x71 ∧
      0x00C ≤ (0x010#12).toNat ∧ (0x010#12).toNat ≤ 0x010 ∧ 0x17D ≤ (0x17D#12).toNat ∧ 0x400 ≤ (0x400#12).toNat := by
  decide +kernel

/-- The last byte of a written frame, and the first address past it. -/
theorem witness_CommandWritesOnlyItsRegisters :
    Writes (.encWriteN 1 0 2) fresh (0x20C#12).toNat ∧ ¬ Writes (.encWriteN 1 0 2) fresh (0x20D#12).toNat ∧
      ¬ Writes (.posSet 2 0) fresh 0x031 ∧ ¬ Writes (.ratioSet 2 0) fresh 0x056 ∧ ¬ Writes (.dwWrite 3 0) fresh (0x100 + 124) ∧
      ∃ t, exec (.posSet 2 0) fresh = .next t := by
  refine ⟨?_, ?_, ?_, ?_, ?_, _, rfl⟩ <;> simp only [Writes] <;> decide

theorem witness_RepeatedCommandsChangeNothing :
    ∃ t, busy.Inv ∧ Instr.calLoad.opcode ≠ .crcByte ∧ Instr.calLoad.opcode ≠ .rxPush ∧ Instr.calLoad.opcode ≠ .rxClear ∧
      exec .calLoad busy = .next t := ⟨_, busy_inv, by decide, by decide, by decide, rfl⟩

/-- Two states that differ in an unwritten position. -/
theorem witness_UnwrittenOperandsAreNeverSeen :
    SameButUnwritten fresh { fresh with posIn := ⟨7, 0, 0, 0, 0, 0⟩ } ∧ fresh.posIn ≠ ⟨7, 0, 0, 0, 0, 0⟩ :=
  ⟨⟨rfl, by decide⟩, by decide⟩

theorem witness_AssemblerAcceptsEveryCommand :
    assemble .decResp [0x06] = some (.decResp 0x06 0) ∧ assemble .posSet [1, -2147483648] = some (.posSet 1 0x80000000) := by
  decide +kernel

theorem witness_EncWriteNListBuildsFrame :
    1#8 ≠ 0#8 ∧ 1 ≤ [0x000A#16, 0x0102#16].length ∧ [0x000A#16, 0x0102#16].length ≤ 123 := by decide

end Sys2Proof.Tests
end

section
/-! SUPPORT. What a step answers, one equation per form of the oldest pending input and per outcome of the decoder, and the
obligation that puts them together (R2, R8, R55, R129). -/

namespace Sys2Proof.Machine

open Sys2Proof.Claims

variable {s : State} {w : CommandWord} {rest : List HostInput}

/-! ### A command word -/

theorem execWord_of_command {i : Instr} (hd : decode w = .command i) (s : State) : execWord w s = exec i s := by
  simp only [execWord, hd]

theorem execWord_of_illegal {why : Illegal} (hd : decode w = .illegal why) (s : State) :
    execWord w s = .next (s.setStatus .illegalCommand) := by
  simp only [execWord, hd, execIllegal, raise_eq]

/-- The statements' own spelling of the state that ILLEGAL_COMMAND leaves (R55). -/
theorem setStatus_illegalCommand (s : State) : s.setStatus .illegalCommand = { s with status := 0x01#8 } := rfl

/-! ### The oldest input -/

theorem step_of_pending_nil (hp : s.pending = []) : step s = .next s := by
  simp only [step, hp, idle]

theorem step_of_pending_command (hp : s.pending = .command w :: rest) : step s = execWord w (s.takeCommand rest) := by
  simp only [step, hp]

/-- The statements' `taken` is the update that a step makes before it runs a command (R8). -/
theorem takeCommand_eq_taken (s : State) (rest : List HostInput) : s.takeCommand rest = taken s rest := rfl

/-- Settles O7: the three clauses are the equations of `step` at a word that decodes, at an ILLEGAL word and with no input. -/
theorem stepRunsDecodedCommand : Obligations.StepRunsDecodedCommand := by
  unfold Obligations.StepRunsDecodedCommand
  refine ⟨fun s w rest i hp hd => ?command, fun s w rest why hp hd => ?illegal, fun s hp => step_of_pending_nil hp⟩
  case command => rw [step_of_pending_command hp, execWord_of_command hd, takeCommand_eq_taken]
  case illegal =>
    rw [step_of_pending_command hp, execWord_of_illegal hd, takeCommand_eq_taken, setStatus_illegalCommand]

end Sys2Proof.Machine
end

section
/-! SUPPORT. What keeps `State.Inv`, one law per kind of register update, and the step's own law put together from them
(10_state.md R9 to R33). -/

namespace Sys2Proof.Machine

variable {s t : State}

/-! ### The registers the invariant speaks of -/

/-- The registers that `State.Inv` speaks of, every other field at its reset value. -/
def State.ranged (s : State) : State :=
  { State.reset with
    status := s.status, rkind := s.rkind, rcount := s.rcount, txbuf := s.txbuf, txlen := s.txlen, rxbuf := s.rxbuf,
    rxlen := s.rxlen, ratio := s.ratio, ratioTag := s.ratioTag, dw := s.dw }

theorem inv_ranged : s.ranged.Inv ↔ s.Inv := ⟨fun h => { h with }, fun h => { h with }⟩

/-- An update of registers that no range speaks of keeps the invariant. -/
theorem State.Inv.of_ranged_eq (h : s.Inv) (e : t.ranged = s.ranged) : t.Inv :=
  inv_ranged.mp (e ▸ inv_ranged.mpr h)

/-! ### Updates that write a register with a range -/

theorem statusCode_le (c : Status) : (statusCode c).toNat ≤ 0x0B := by
  cases c <;> decide

theorem kindCode_le (k : ResponseKind) : (kindCode k).toNat ≤ 3 := by
  cases k <;> decide

theorem kindCode_eq_one {k : ResponseKind} : kindCode k = 1#8 ↔ k = .registers := by
  cases k <;> decide

theorem State.Inv.setStatus (h : s.Inv) (c : Status) : (s.setStatus c).Inv :=
  { h with statusLegal := statusCode_le c }

/-- A command that ends with STATUS written and no other register with a range changed keeps the invariant. -/
theorem State.Inv.of_only_status (h : s.Inv) {c : Status} (e : t.ranged = (s.setStatus c).ranged) : t.Inv :=
  (h.setStatus c).of_ranged_eq e

/-- Reset leaves nothing written, and every length and code 0 (R131). -/
theorem reset_inv : State.reset.Inv where
  txWf := List.Pairwise.nil
  txRange := by simp [State.reset]
  rxWf := List.Pairwise.nil
  rxRange := by simp [State.reset]
  dwWf := List.Pairwise.nil
  dwRange := by simp [State.reset]
  txLen := by decide
  txFilled := by simp [State.reset]
  rxLen := by decide
  rxFilled := by simp [State.reset]
  statusLegal := by decide
  kindLegal := by decide
  countLegal := by decide
  kindCount := by decide
  countWritten := by simp [State.reset]
  ratioLegal := by decide

theorem takeReset_inv (s : State) (rest : List HostInput) : (s.takeReset rest).Inv :=
  reset_inv.of_ranged_eq rfl

/-- A frame placed from index 0 writes every byte below its length (R17, R76). -/
theorem State.Inv.setFrame (h : s.Inv) {frame : List Byte} (hlen : frame.length ≤ 256) (c : Half) :
    (s.setFrame frame c).Inv :=
  have htx : (BitVec.ofNat 9 frame.length).toNat = frame.length := Nat.mod_eq_of_lt (by omega)
  { h with
    txWf := Mem.wf_writeList h.txWf 0 frame
    txRange := Mem.range_writeList h.txRange frame (by omega)
    txLen := by simpa only [setFrame_txlen, htx] using hlen
    txFilled := by
      intro i hi
      rw [setFrame_txlen, htx] at hi
      simp [Mem.read_writeList, hi] }

theorem State.Inv.withFrame (h : s.Inv) {body : List Byte} (hlen : body.length ≤ 254) : (s.withFrame body).Inv :=
  (h.setFrame (by simpa [le16] using hlen) _).setStatus _

/-- RX_CLEAR (R71). -/
theorem State.Inv.clearRx (h : s.Inv) : State.Inv { s with rxlen := 0#9 } :=
  { h with rxLen := by simp, rxFilled := by simp }

/-- RX_PUSH below 256 bytes (R72). -/
theorem State.Inv.pushRx (h : s.Inv) (hne : s.rxlen ≠ 256#9) (b : Byte) :
    State.Inv { s with rxbuf := s.rxbuf.write s.rxlen.toNat b, rxlen := s.rxlen + 1#9 } :=
  have hle := h.rxLen
  have hlt : s.rxlen.toNat < 256 := lt_of_le_of_ne hle fun e => hne (BitVec.eq_of_toNat_eq e)
  have hadd : (s.rxlen + 1#9).toNat = s.rxlen.toNat + 1 := by
    rw [BitVec.toNat_add]
    exact Nat.mod_eq_of_lt (by simp; omega)
  { h with
    rxWf := Mem.wf_write h.rxWf _ b
    rxRange := Mem.range_write h.rxRange hlt b
    rxLen := by simp only [hadd]; omega
    rxFilled := by
      intro i hi
      simp only [hadd] at hi
      rw [Mem.read_write]
      split
      · rfl
      · exact h.rxFilled i (by omega) }

/-- A word of DW written (R73): every word written before keeps its tag. -/
theorem State.Inv.writeDw (h : s.Inv) {i : Nat} (hi : i ≤ 124) (v : Half) : State.Inv { s with dw := s.dw.write i v } :=
  { h with
    dwWf := Mem.wf_write h.dwWf i v
    dwRange := Mem.range_write h.dwRange (by omega) v
    countWritten := by
      intro j hj
      simp only [Mem.read_write]
      split
      · rfl
      · exact h.countWritten j hj }

/-- A response that returned no register (R90). -/
theorem State.Inv.setKind_zero (h : s.Inv) {k : ResponseKind} (hk : k ≠ .registers) : (s.setKind k 0).Inv :=
  { h with
    kindLegal := kindCode_le k
    countLegal := by simp
    kindCount := by simp [kindCode_eq_one, hk]
    countWritten := by simp }

/-- A response that returned `count` registers has written that many words (R89, R90). -/
theorem State.Inv.withRegisters (h : s.Inv) {count : Nat} (h1 : 1 ≤ count) (h125 : count ≤ 125) :
    (s.withRegisters count).Inv :=
  have hlen := responseValues_length s count
  have hcnt : (BitVec.ofNat 8 count).toNat = count := Nat.mod_eq_of_lt (by omega)
  have hne : BitVec.ofNat 8 count ≠ 0#8 := fun e => by
    rw [e] at hcnt
    simp at hcnt
    omega
  { h with
    dwWf := Mem.wf_writeList h.dwWf 0 _
    dwRange := Mem.range_writeList h.dwRange _ (by omega)
    statusLegal := statusCode_le .ok
    kindLegal := kindCode_le .registers
    countLegal := by simpa [State.withRegisters, hcnt] using h125
    kindCount := by simpa [State.withRegisters, kindCode] using hne
    countWritten := by
      intro i hi
      have hi : i < count := by simpa [State.withRegisters, hcnt] using hi
      simp [State.withRegisters, Mem.read_writeList, hlen, hi] }

/-- A ratio in range written (R106). -/
theorem State.Inv.setRatio (h : s.Inv) {r : Half} (hr : r.toNat ≤ 0x8000) (k : Fin 6) :
    State.Inv { s with ratio := s.ratio.set k r, ratioTag := s.ratioTag.set k true } :=
  { h with
    ratioLegal := by
      intro j
      simp only [Axes.get_set]
      split
      · exact fun _ => hr
      · exact h.ratioLegal j }

/-! ### Commands and steps -/

/-- DEC_RESP, outcome by outcome: a frame that fails a check, or carries no register, leaves RCOUNT 0 (R90). -/
theorem State.Inv.execDecResp {fe : Byte} {cnt : Half} (h : s.Inv) (he : execDecResp fe cnt s = .next t) : t.Inv := by
  have hcrc : (s.setLastCrc (computedCrc s)).Inv := h.of_ranged_eq rfl
  have hheader : s.withHeader.Inv := h.of_ranged_eq rfl
  have hexc : (s.withHeader.setExcCode (rxByte s 2)).Inv := h.of_ranged_eq rfl
  rcases execDecResp_next he with ⟨-, rfl⟩ | ⟨hop, ⟨-, rfl⟩ | ⟨-, -, rfl⟩ | ⟨-, -, hresponse⟩⟩
  · exact h.setStatus _
  · exact (h.setKind_zero (by decide)).setStatus _
  · exact (hcrc.setKind_zero (by decide)).setStatus _
  rcases hresponse with ⟨-, ⟨-, rfl⟩ | ⟨-, rfl⟩⟩ | ⟨-, -, rfl⟩ | ⟨-, -, -, rfl⟩ | ⟨-, -, hfe, ⟨-, rfl⟩ | ⟨-, rfl⟩⟩
  · exact (hexc.setKind_zero (by decide)).setStatus _
  · exact (hexc.setKind_zero (by decide)).setStatus _
  · exact (hheader.setKind_zero (by decide)).setStatus _
  · exact (hheader.setKind_zero (by decide)).setStatus _
  · exact (hheader.setKind_zero (by decide)).setStatus _
  · obtain ⟨-, h1, h125⟩ : fe = 0x03#8 ∧ 1 ≤ cnt.toNat ∧ cnt.toNat ≤ 125 :=
      (expectationOk_iff.mp hop).resolve_right hfe
    exact hheader.withRegisters h1 h125

theorem State.Inv.generateAddress {base : Half} {axis : Byte} {stride : Nat} (h : s.Inv)
    (he : generateAddress base axis stride s = .next t) : t.Inv := by
  rcases generateAddress_next he with ⟨-, rfl⟩ | ⟨-, -, a, -, rfl⟩
  · exact h.setStatus _
  · exact h.of_only_status rfl

/-- Every command keeps the invariant: an outcome that raises writes STATUS, the others are the updates above. -/
theorem State.Inv.exec {i : Instr} (h : s.Inv) (he : exec i s = .next t) : t.Inv := by
  cases i with
  | crcInit =>
    obtain rfl := execCrcInit_next he
    exact h.of_only_status rfl
  | crcByte b =>
    obtain rfl := execCrcByte_next he
    exact h.of_only_status rfl
  | crcCheck =>
    rcases execCrcCheck_next he with ⟨-, rfl⟩ | ⟨-, -, rfl⟩ | ⟨-, -, rfl⟩ <;> exact h.of_only_status rfl
  | rxClear =>
    obtain rfl := execRxClear_next he
    exact h.clearRx.setStatus _
  | rxPush b =>
    rcases execRxPush_next he with ⟨-, rfl⟩ | ⟨hne, rfl⟩
    · exact h.setStatus _
    · exact (h.pushRx hne b).setStatus _
  | dwWrite index value =>
    rcases execDwWrite_next he with ⟨-, rfl⟩ | ⟨hle, rfl⟩
    · exact h.setStatus _
    · exact (h.writeDw hle value).setStatus _
  | encRead unit address count =>
    rcases execEncRead_next he with ⟨-, rfl⟩ | ⟨-, -, -, rfl⟩
    · exact h.setStatus _
    · exact h.withFrame (by rw [shortBody_length]; decide)
  | encWrite1 unit address value =>
    rcases execEncWrite1_next he with ⟨-, rfl⟩ | ⟨-, rfl⟩
    · exact h.setStatus _
    · exact h.withFrame (by rw [shortBody_length]; decide)
  | encWriteN unit address count =>
    rcases execEncWriteN_next he with ⟨-, rfl⟩ | ⟨-, -, h123, rfl⟩
    · exact h.setStatus _
    · exact h.withFrame (by rw [writeBody_length, stagedWords_length]; omega)
  | decResp fe cnt => exact h.execDecResp he
  | addrLinear base axis => exact h.generateAddress he
  | addrForce base axis => exact h.generateAddress he
  | packUniform mode =>
    obtain rfl := execPackUniform_next he
    exact h.of_only_status rfl
  | packAxis axis mode =>
    rcases execPackAxis_next he with ⟨-, rfl⟩ | ⟨k, -, rfl⟩ <;> exact h.of_only_status rfl
  | unpack word =>
    obtain rfl := execUnpack_next he
    exact h.of_only_status rfl
  | unpackDw index =>
    rcases execUnpackDw_next he with ⟨-, rfl⟩ | ⟨-, rfl⟩ <;> exact h.of_only_status rfl
  | calLoad =>
    rcases execCalLoad_next he with ⟨-, rfl⟩ | ⟨-, rfl⟩ <;> exact h.of_only_status rfl
  | calClear =>
    obtain rfl := execCalClear_next he
    exact h.of_only_status rfl
  | posSet axis position =>
    rcases execPosSet_next he with ⟨-, rfl⟩ | ⟨k, -, rfl⟩ <;> exact h.of_only_status rfl
  | ratioSet axis ratio =>
    rcases execRatioSet_next he with ⟨-, rfl⟩ | ⟨k, -, hr, rfl⟩
    · exact h.setStatus _
    · exact (h.setRatio hr k).setStatus _
  | clamp =>
    rcases execClamp_next he with ⟨-, rfl⟩ | ⟨-, -, rfl⟩ | ⟨-, -, rfl⟩ <;> exact h.of_only_status rfl
  | clampRatio =>
    rcases execClampRatio_next he with ⟨-, rfl⟩ | ⟨-, -, rfl⟩ | ⟨-, -, rfl⟩ <;> exact h.of_only_status rfl

/-- Settles O57: an idle step, a command, an ILLEGAL word and a reset each keep the ranges. -/
theorem stepKeepsInvariant : Obligations.StepKeepsInvariant := by
  unfold Obligations.StepKeepsInvariant
  intro s t h hstep
  have htaken : ∀ rest, (s.takeCommand rest).Inv := fun rest => h.of_ranged_eq rfl
  rcases step_next hstep with ⟨-, rfl⟩ | ⟨w, rest, i, -, -, he⟩ | ⟨w, rest, why, -, -, rfl⟩ | ⟨rest, -, rfl⟩
  · exact h
  · exact (htaken rest).exec he
  · exact (htaken rest).setStatus _
  · exact takeReset_inv s rest

end Sys2Proof.Machine
end

section
/-! SUPPORT. Which commands see a register at all. An overlay puts other contents in some registers; a command that neither reads
nor writes them does the same under it, and leaves them as they are. One case split over the commands thus says both who reads
a register (noninterference) and who writes it (the frame). -/

namespace Sys2Proof.Machine

open Sys2Proof.Claims

/-- New contents for some registers, each as a function of the old; a register that is not named keeps its own. -/
structure Overlay where
  crc : Half → Half := id
  flags : BitVec 2 → BitVec 2 := id
  rxbuf : Mem 8 → Mem 8 := id
  calmax : Axes Half → Axes Half := id
  posIn : Axes Full → Axes Full := id
  posTag : Axes Bool → Axes Bool := id
  ratio : Axes Half → Axes Half := id
  ratioTag : Axes Bool → Axes Bool := id
  pending : List HostInput → List HostInput := id
  cmdIndex : Nat → Nat := id

/-- The state with the overlay's contents. -/
def Overlay.apply (o : Overlay) (s : State) : State :=
  { s with
    crc := o.crc s.crc, flags := o.flags s.flags, rxbuf := o.rxbuf s.rxbuf, calmax := o.calmax s.calmax,
    posIn := o.posIn s.posIn, posTag := o.posTag s.posTag, ratio := o.ratio s.ratio, ratioTag := o.ratioTag s.ratioTag,
    pending := o.pending s.pending, cmdIndex := o.cmdIndex s.cmdIndex }

/-- What commands read is the same under the overlay: the flags; RXBUF below RXLEN (R18); the maxima, when calibrated (R21);
the words of POS_IN and RATIO as CLAMP and CLAMP_RATIO find them (R33). -/
structure Overlay.Unread (o : Overlay) (s : State) : Prop where
  flags : o.flags s.flags = s.flags := by rfl
  rxbuf : ∀ j, j < s.rxlen.toNat → (o.rxbuf s.rxbuf).read j = s.rxbuf.read j := by exact fun _ _ => rfl
  calmax : calValid s.flags = false ∨ o.calmax s.calmax = s.calmax := by exact .inr rfl
  position : positionWord (o.apply s) = positionWord s := by rfl
  ratio : ratioWord (o.apply s) = ratioWord s := by rfl

/-- The overlay does not touch the registers the command writes (R41). -/
structure Overlay.Unwritten (o : Overlay) (i : Instr) : Prop where
  crc : i.opcode = .crcInit ∨ i.opcode = .crcByte → o.crc = id := by exact fun _ => rfl
  flags : i = .calLoad ∨ i = .calClear ∨ i = .clamp → o.flags = id := by exact fun _ => rfl
  rxbuf : i.opcode = .rxPush → o.rxbuf = id := by exact fun _ => rfl
  calmax : i = .calLoad → o.calmax = id := by exact fun _ => rfl
  position : i.opcode = .posSet → o.posIn = id ∧ o.posTag = id := by exact fun _ => ⟨rfl, rfl⟩
  ratio : i.opcode = .ratioSet → o.ratio = id ∧ o.ratioTag = id := by exact fun _ => ⟨rfl, rfl⟩

/-! ### The law, check by check -/

variable {o : Overlay} {s t : State}

/-- A check that answers the same in both states leaves each of its two outcomes to compare. -/
theorem ite_eq_mapNext {f : State → State} {c c' : Prop} [Decidable c] [Decidable c'] {a a' b b' : Result}
    (hc : c' ↔ c) (ha : c → a' = mapNext f a) (hb : ¬ c → b' = mapNext f b) :
    (if c' then a' else b') = mapNext f (if c then a else b) := by
  by_cases h : c
  · rw [if_pos h, if_pos (hc.mpr h), ha h]
  · rw [if_neg h, if_neg (mt hc.mp h), hb h]

/-- The overlay agrees with RXBUF below RXLEN. -/
def Overlay.KeepsReceived (o : Overlay) (s : State) : Prop :=
  ∀ j, j < s.rxlen.toNat → rxByte (o.apply s) j = rxByte s j

theorem Overlay.Unread.keepsReceived (h : o.Unread s) : o.KeepsReceived s :=
  fun j hj => congrArg (Option.getD · (Config.freeRxByte s.resets j)) (h.rxbuf j hj)

theorem Overlay.KeepsReceived.computedCrc (h : o.KeepsReceived s) : computedCrc (o.apply s) = computedCrc s := by
  refine congrArg crc16 (List.map_congr_left fun j hj => h _ ?_)
  have : j < s.rxlen.toNat - 2 := List.mem_range.mp hj
  omega

theorem Overlay.KeepsReceived.receivedCrc (h : o.KeepsReceived s) (h5 : 5 ≤ s.rxlen.toNat) :
    receivedCrc (o.apply s) = receivedCrc s :=
  congrArg₂ half (h (s.rxlen.toNat - 1) (by omega)) (h (s.rxlen.toNat - 2) (by omega))

theorem execCrcCheck_apply (h : o.KeepsReceived s) : execCrcCheck (o.apply s) = mapNext o.apply (execCrcCheck s) := by
  unfold execCrcCheck
  refine ite_eq_mapNext Iff.rfl (fun _ => rfl) fun h5 => ?_
  rw [h.computedCrc, h.receivedCrc (by omega)]
  exact ite_eq_mapNext Iff.rfl (fun _ => rfl) fun _ => rfl

theorem takeException_apply (h : o.KeepsReceived s) (h5 : 5 ≤ s.rxlen.toNat) :
    takeException (o.apply s) = mapNext o.apply (takeException s) := by
  unfold takeException
  rw [h 2 (by omega)]
  exact ite_eq_mapNext Iff.rfl (fun _ => rfl) fun _ => rfl

theorem takeRegisters_apply (h : o.KeepsReceived s) (h5 : 5 ≤ s.rxlen.toNat) (cnt : Half) :
    takeRegisters cnt (o.apply s) = mapNext o.apply (takeRegisters cnt s) := by
  unfold takeRegisters
  refine ite_eq_mapNext Iff.rfl (fun _ => rfl) fun hcount => ?_
  have hvalues : responseValues (o.apply s) cnt.toNat = responseValues s cnt.toNat := by
    refine List.map_congr_left fun i hi => ?_
    have hi := List.mem_range.mp hi
    exact congrArg₂ half (h _ (by omega)) (h _ (by omega))
  rw [hvalues]
  rfl

theorem takeResponse_apply (h : o.KeepsReceived s) (h5 : 5 ≤ s.rxlen.toNat) (fe : Byte) (cnt : Half) :
    takeResponse fe cnt (o.apply s) = mapNext o.apply (takeResponse fe cnt s) := by
  unfold takeResponse
  rw [h 1 (by omega)]
  exact ite_eq_mapNext Iff.rfl (fun _ => takeException_apply h h5) fun _ =>
    ite_eq_mapNext Iff.rfl (fun _ => rfl) fun _ =>
    ite_eq_mapNext Iff.rfl (fun _ => rfl) fun _ => takeRegisters_apply h h5 cnt

theorem execDecResp_apply (h : o.KeepsReceived s) (fe : Byte) (cnt : Half) :
    execDecResp fe cnt (o.apply s) = mapNext o.apply (execDecResp fe cnt s) := by
  unfold execDecResp
  refine ite_eq_mapNext Iff.rfl (fun _ => ?_) fun _ => rfl
  refine ite_eq_mapNext Iff.rfl (fun _ => rfl) fun hlen => ?_
  rw [h.computedCrc, h.receivedCrc (by omega), h 0 (by omega), h 1 (by omega)]
  refine ite_eq_mapNext Iff.rfl (fun _ => rfl) fun _ => ?_
  exact takeResponse_apply (s := s.withHeader) h (not_lt.mp hlen) fe cnt

theorem finishFrame_apply (o : Overlay) (s : State) (body : List Byte) :
    finishFrame body (o.apply s) = mapNext o.apply (finishFrame body s) := rfl

theorem execEncWriteN_apply (o : Overlay) (s : State) (unit : Byte) (address count : Half) :
    execEncWriteN unit address count (o.apply s) = mapNext o.apply (execEncWriteN unit address count s) := by
  unfold execEncWriteN
  rw [show stagedWords (o.apply s) = stagedWords s from rfl]
  exact ite_eq_mapNext Iff.rfl (fun _ => finishFrame_apply ..) fun _ => rfl

theorem generateAddress_apply (o : Overlay) (s : State) (base : Half) (axis : Byte) (stride : Nat) :
    generateAddress base axis stride (o.apply s) = mapNext o.apply (generateAddress base axis stride s) := by
  unfold generateAddress
  split
  · rfl
  · split <;> rfl

theorem execRxPush_apply (h : o.rxbuf = id) (b : Byte) : execRxPush b (o.apply s) = mapNext o.apply (execRxPush b s) := by
  cases o
  cases h
  exact ite_eq_mapNext Iff.rfl (fun _ => rfl) fun _ => rfl

theorem execDwWrite_apply (o : Overlay) (s : State) (index : Byte) (value : Half) :
    execDwWrite index value (o.apply s) = mapNext o.apply (execDwWrite index value s) := by
  unfold execDwWrite
  split <;> rfl

theorem execPackAxis_apply (o : Overlay) (s : State) (axis : Byte) (mode : BitVec 2) :
    execPackAxis axis mode (o.apply s) = mapNext o.apply (execPackAxis axis mode s) := by
  unfold execPackAxis
  split <;> rfl

theorem execUnpackDw_apply (o : Overlay) (s : State) (index : Byte) :
    execUnpackDw index (o.apply s) = mapNext o.apply (execUnpackDw index s) := by
  unfold execUnpackDw
  split <;> rfl

theorem execPosSet_apply (hp : o.posIn = id) (ht : o.posTag = id) (axis : Byte) (position : Full) :
    execPosSet axis position (o.apply s) = mapNext o.apply (execPosSet axis position s) := by
  cases o
  cases hp
  cases ht
  unfold execPosSet
  split <;> rfl

theorem execRatioSet_apply (hr : o.ratio = id) (ht : o.ratioTag = id) (axis : Byte) (ratio : Half) :
    execRatioSet axis ratio (o.apply s) = mapNext o.apply (execRatioSet axis ratio s) := by
  cases o
  cases hr
  cases ht
  unfold execRatioSet
  split
  · rfl
  · exact ite_eq_mapNext Iff.rfl (fun _ => rfl) fun _ => rfl

theorem execCalLoad_apply (hm : o.calmax = id) (hf : o.flags = id) :
    execCalLoad (o.apply s) = mapNext o.apply (execCalLoad s) := by
  cases o
  cases hm
  cases hf
  exact ite_eq_mapNext Iff.rfl (fun _ => rfl) fun _ => rfl

theorem someRangeEmpty_apply (h : o.calmax s.calmax = s.calmax) : someRangeEmpty (o.apply s) = someRangeEmpty s :=
  congrArg (fun m => someRangeEmpty { s with calmax := m }) h

theorem clampedOut_apply (h : o.calmax s.calmax = s.calmax) (p : Fin 6 → Int) :
    clampedOut (o.apply s) p = clampedOut s p :=
  congrArg (fun m => clampedOut { s with calmax := m } p) h

theorem execClamp_apply (h : o.Unread s) (hf : o.flags = id) :
    execClamp (o.apply s) = mapNext o.apply (execClamp s) := by
  obtain ⟨-, -, hcalmax, hposition, -⟩ := h
  cases o
  cases hf
  unfold execClamp
  rw [hposition]
  refine ite_eq_mapNext Iff.rfl (fun hc => ?_) fun _ => rfl
  have hcalmax := hcalmax.resolve_left (by simp [hc])
  rw [someRangeEmpty_apply hcalmax, clampedOut_apply hcalmax]
  exact ite_eq_mapNext Iff.rfl (fun _ => rfl) fun _ => rfl

theorem execClampRatio_apply (h : o.Unread s) : execClampRatio (o.apply s) = mapNext o.apply (execClampRatio s) := by
  have hflags : (o.apply s).flags = s.flags := h.flags
  unfold execClampRatio
  refine ite_eq_mapNext (by rw [hflags]) (fun hc => ?_) fun _ => rfl
  have hcalmax := h.calmax.resolve_left (by simp [hc])
  have hget : (o.apply s).calmax.get = s.calmax.get := congrArg Axes.get hcalmax
  rw [someRangeEmpty_apply hcalmax, clampedOut_apply hcalmax, h.ratio, hget]
  exact ite_eq_mapNext Iff.rfl (fun _ => rfl) fun _ => rfl

/-- A command does the same under an overlay of registers it neither reads nor writes, and leaves the contents as they are. -/
theorem exec_apply {i : Instr} (hr : o.Unread s) (hw : o.Unwritten i) :
    exec i (o.apply s) = mapNext o.apply (exec i s) := by
  cases i with
  | crcInit =>
    have hcrc := hw.crc (.inl rfl)
    cases o
    cases hcrc
    rfl
  | crcByte b =>
    have hcrc := hw.crc (.inr rfl)
    cases o
    cases hcrc
    rfl
  | crcCheck => exact execCrcCheck_apply hr.keepsReceived
  | rxClear => rfl
  | rxPush b => exact execRxPush_apply (hw.rxbuf rfl) b
  | dwWrite index value => exact execDwWrite_apply ..
  | encRead unit address count => exact ite_eq_mapNext Iff.rfl (fun _ => finishFrame_apply ..) fun _ => rfl
  | encWrite1 unit address value => exact ite_eq_mapNext Iff.rfl (fun _ => finishFrame_apply ..) fun _ => rfl
  | encWriteN unit address count => exact execEncWriteN_apply ..
  | decResp fe cnt => exact execDecResp_apply hr.keepsReceived fe cnt
  | addrLinear base axis => exact generateAddress_apply ..
  | addrForce base axis => exact generateAddress_apply ..
  | packUniform mode => rfl
  | packAxis axis mode => exact execPackAxis_apply ..
  | unpack word => rfl
  | unpackDw index => exact execUnpackDw_apply ..
  | calLoad => exact execCalLoad_apply (hw.calmax rfl) (hw.flags (.inl rfl))
  | calClear =>
    have hflags := hw.flags (.inr (.inl rfl))
    cases o
    cases hflags
    rfl
  | posSet axis position =>
    obtain ⟨hp, ht⟩ := hw.position rfl
    exact execPosSet_apply hp ht axis position
  | ratioSet axis ratio =>
    obtain ⟨hp, ht⟩ := hw.ratio rfl
    exact execRatioSet_apply hp ht axis ratio
  | clamp => exact execClamp_apply hr (hw.flags (.inr (.inr rfl)))
  | clampRatio => exact execClampRatio_apply hr

/-- Contents that the state has already are left by the command: its frame. -/
theorem apply_eq_of_exec {i : Instr} (hr : o.Unread s) (hw : o.Unwritten i) (hs : o.apply s = s)
    (he : exec i s = .next t) : t = o.apply t := by
  have h := exec_apply hr hw
  rw [hs, he] at h
  exact Host.Outcome.next.inj h

end Sys2Proof.Machine
end

section
/-! SUPPORT. The overlay law at the command index and the inputs to come (R8), the accumulator (R16), the bytes of RXBUF above
RXLEN (R18), the maxima (R21) and the flags (R22), and the obligations it settles. -/

namespace Sys2Proof.Machine

open Sys2Proof.Claims

variable {s t : State}

/-! ### What a command leaves unchanged -/

section

variable {i : Instr} (he : exec i s = .next t)
include he

/-- No command changes the inputs still to come or the command index: taking the input does (R8). -/
theorem exec_keeps_inputs : t.pending = s.pending ∧ t.cmdIndex = s.cmdIndex := by
  have h := apply_eq_of_exec (o := { pending := fun _ => s.pending, cmdIndex := fun _ => s.cmdIndex }) {} {} rfl he
  exact ⟨(congrArg State.pending h :), (congrArg State.cmdIndex h :)⟩

theorem exec_keeps_flags (h1 : i ≠ .calLoad) (h2 : i ≠ .calClear) (h3 : i ≠ .clamp) : t.flags = s.flags :=
  have h := apply_eq_of_exec (o := { flags := fun _ => s.flags }) {} { flags := by simp [h1, h2, h3] } rfl he
  (congrArg State.flags h :)

theorem exec_keeps_calmax (h1 : i ≠ .calLoad) : t.calmax = s.calmax :=
  have h := apply_eq_of_exec (o := { calmax := fun _ => s.calmax }) {} { calmax := fun h => absurd h h1 } rfl he
  (congrArg State.calmax h :)

theorem exec_keeps_operands (h1 : i.opcode ≠ .posSet) (h2 : i.opcode ≠ .ratioSet) :
    t.posIn = s.posIn ∧ t.posTag = s.posTag ∧ t.ratio = s.ratio ∧ t.ratioTag = s.ratioTag := by
  have h := apply_eq_of_exec
    (o := { posIn := fun _ => s.posIn, posTag := fun _ => s.posTag, ratio := fun _ => s.ratio, ratioTag := fun _ => s.ratioTag })
    {} { position := fun h => absurd h h1, ratio := fun h => absurd h h2 } rfl he
  exact ⟨(congrArg State.posIn h :), (congrArg State.posTag h :), (congrArg State.ratio h :),
    (congrArg State.ratioTag h :)⟩

end

/-! ### Registers that commands do not see -/

/-- Settles O20: an overlay of CRC. -/
theorem onlyStreamingCommandsUseCrc : Obligations.OnlyStreamingCommandsUseCrc := by
  unfold Obligations.OnlyStreamingCommandsUseCrc
  refine ⟨rfl, fun i s c h1 h2 => ?_⟩
  exact exec_apply (o := { crc := fun _ => c }) {} { crc := by simp [h1, h2] }

/-- Settles O24: an overlay of RXBUF that agrees with it below RXLEN. -/
theorem bytesAboveRxlenAreNeverRead : Obligations.BytesAboveRxlenAreNeverRead := by
  unfold Obligations.BytesAboveRxlenAreNeverRead
  intro i s m hpush hbelow
  exact exec_apply (o := { rxbuf := fun _ => m }) { rxbuf := hbelow } { rxbuf := fun h => absurd h hpush }

/-- Settles O8: taking the word advances the index and drops the head of the list, and running it changes neither. -/
theorem commandIndexAdvancesByOne : Obligations.CommandIndexAdvancesByOne := by
  unfold Obligations.CommandIndexAdvancesByOne
  refine ⟨rfl, fun s t w rest hp hstep => ?_⟩
  rw [step_of_pending_command hp] at hstep
  cases hd : decode w with
  | command i =>
    rw [execWord_of_command hd] at hstep
    obtain ⟨hpending, hindex⟩ := exec_keeps_inputs hstep
    exact ⟨hindex, hpending⟩
  | illegal why =>
    rw [execWord_of_illegal hd] at hstep
    cases hstep
    exact ⟨rfl, rfl⟩

/-- Settles O52: an overlay of CALMAX, which nothing reads while CALVALID is 0; CAL_LOAD writes all six words. -/
theorem uncalibratedMaximaAreNeverRead : Obligations.UncalibratedMaximaAreNeverRead := by
  unfold Obligations.UncalibratedMaximaAreNeverRead
  refine ⟨by decide, fun i s t hne he => exec_keeps_calmax he hne, fun i s c hne hcal => ?unread, fun s c hcount => ?load⟩
  case unread =>
    exact exec_apply (o := { calmax := fun _ => c }) { calmax := .inl hcal } { calmax := fun h => absurd h hne }
  case load =>
    simp only [exec, execCalLoad, hcount, if_true]
    rfl

/-! ### The flags (R22) -/

theorem execCalLoad_flags (he : execCalLoad s = .next t) :
    (t.status = 0x00#8 → calValid t.flags = true) ∧ (t.status ≠ 0x00#8 → t.flags = s.flags) ∧
      uncal t.flags = uncal s.flags := by
  rcases execCalLoad_next he with ⟨-, rfl⟩ | ⟨-, rfl⟩
  · simp [statusCode]
  · simp [State.withCalibration, statusCode]

theorem execCalClear_flags (he : execCalClear s = .next t) :
    calValid t.flags = false ∧ uncal t.flags = uncal s.flags := by
  obtain rfl := execCalClear_next he
  simp

theorem execClamp_flags (he : execClamp s = .next t) :
    (t.status = 0x00#8 → uncal t.flags = !calValid s.flags) ∧ (t.status ≠ 0x00#8 → t.flags = s.flags) ∧
      calValid t.flags = calValid s.flags := by
  rcases execClamp_next he with ⟨hc, rfl⟩ | ⟨hc, -, rfl⟩ | ⟨hc, -, rfl⟩ <;> simp [statusCode, hc]

/-- CALVALID has two writers. -/
theorem exec_keeps_calValid {i : Instr} (he : exec i s = .next t) (h1 : i ≠ .calLoad) (h2 : i ≠ .calClear) :
    calValid t.flags = calValid s.flags := by
  by_cases h3 : i = .clamp
  · subst h3
    obtain ⟨-, -, hkept⟩ := execClamp_flags he
    exact hkept
  · rw [exec_keeps_flags he h1 h2 h3]

/-- UNCAL has one writer. -/
theorem exec_keeps_uncal {i : Instr} (he : exec i s = .next t) (h3 : i ≠ .clamp) : uncal t.flags = uncal s.flags := by
  by_cases h1 : i = .calLoad
  · subst h1
    obtain ⟨-, -, hkept⟩ := execCalLoad_flags he
    exact hkept
  by_cases h2 : i = .calClear
  · subst h2
    obtain ⟨-, hkept⟩ := execCalClear_flags he
    exact hkept
  rw [exec_keeps_flags he h1 h2 h3]

theorem toNat_flags (f : BitVec 2) :
    (f.setWidth 32).toNat = (if f.getLsbD 0 then 1 else 0) + (if f.getLsbD 1 then 2 else 0) := by
  revert f
  decide

/-- Settles O51: every flag is written where it is said, and kept elsewhere. -/
theorem flagsHaveTheirWriters : Obligations.FlagsHaveTheirWriters := by
  unfold Obligations.FlagsHaveTheirWriters
  refine ⟨rfl, fun s => ?port, fun i s t he => ⟨exec_keeps_calValid he, ?load, ?loadFails, ?clear, exec_keeps_uncal he, ?clamp,
    ?clampFails⟩⟩
  case port =>
    rw [readPort_of_addr (r := .flags) rfl]
    exact toNat_flags s.flags
  case load =>
    rintro rfl
    obtain ⟨hset, -, -⟩ := execCalLoad_flags he
    exact hset
  case loadFails =>
    rintro rfl
    obtain ⟨-, hkept, -⟩ := execCalLoad_flags he
    exact hkept
  case clear =>
    rintro rfl
    obtain ⟨hcleared, -⟩ := execCalClear_flags he
    exact hcleared
  case clamp =>
    rintro rfl
    obtain ⟨hset, -, -⟩ := execClamp_flags he
    exact hset
  case clampFails =>
    rintro rfl
    obtain ⟨-, hkept, -⟩ := execClamp_flags he
    exact hkept

end Sys2Proof.Machine
end

section
/-! SUPPORT. Words of POS_IN and RATIO never written (R33): two states that differ only there answer alike, through the port and
through every step. -/

namespace Sys2Proof.Machine

theorem step_of_pending_reset {s : State} {rest : List HostInput} (hp : s.pending = .reset :: rest) :
    step s = .next (s.takeReset rest) := by
  simp only [step, hp]

/-- The contents that a state has in POS_IN and RATIO. -/
def State.operands (u : State) : Overlay := { posIn := fun _ => u.posIn, ratio := fun _ => u.ratio }

end Sys2Proof.Machine

namespace Sys2Proof.Claims.SameButUnwritten

open Sys2Proof.Machine

variable {s u : State}

theorem refl (s : State) : SameButUnwritten s s := ⟨rfl, fun _ => ⟨fun _ => rfl, fun _ => rfl⟩⟩

theorem positionWord_eq (h : SameButUnwritten s u) : positionWord u = positionWord s := by
  obtain ⟨hu, hk⟩ := h
  funext k
  rw [hu]
  unfold positionWord
  split
  · exact (hk k).1 ‹_›
  · rfl

theorem ratioWord_eq (h : SameButUnwritten s u) : ratioWord u = ratioWord s := by
  obtain ⟨hu, hk⟩ := h
  funext k
  rw [hu]
  unfold ratioWord
  split
  · exact (hk k).2 ‹_›
  · rfl

theorem readPort_eq (h : SameButUnwritten s u) (a : BitVec 12) : readPort u a = readPort s a := by
  refine readPort_congr fun r hr => ?_
  clear hr
  cases r
  case posIn k => exact congrFun h.positionWord_eq k
  case ratio k => exact congrArg (BitVec.setWidth 32) (congrFun h.ratioWord_eq k)
  all_goals
    rw [h.1]
    rfl

theorem setStatus (h : SameButUnwritten s u) (c : Status) : SameButUnwritten (s.setStatus c) (u.setStatus c) :=
  ⟨congrArg (State.setStatus · c) h.1, h.2⟩

theorem takeCommand (h : SameButUnwritten s u) (rest : List HostInput) :
    SameButUnwritten (s.takeCommand rest) (u.takeCommand rest) :=
  ⟨congrArg (State.takeCommand · rest) h.1, h.2⟩

theorem takeReset_eq (h : SameButUnwritten s u) (rest : List HostInput) : u.takeReset rest = s.takeReset rest :=
  (congrArg (State.takeReset · rest) h.1 :)

/-- A word written, with its tag, is the same in both states (R105). -/
theorem writePosition (h : SameButUnwritten s u) (k : Fin 6) (x : Full) :
    SameButUnwritten { s with posIn := s.posIn.set k x, posTag := s.posTag.set k true }
      { u with posIn := u.posIn.set k x, posTag := u.posTag.set k true } := by
  obtain ⟨hu, hk⟩ := h
  refine ⟨congrArg (fun v : State => { v with posIn := u.posIn.set k x, posTag := v.posTag.set k true }) hu,
    fun j => ⟨?_, (hk j).2⟩⟩
  by_cases hj : j = k
  · simp [hj]
  · simpa [hj] using (hk j).1

/-- As `writePosition`, for RATIO (R106). -/
theorem writeRatio (h : SameButUnwritten s u) (k : Fin 6) (x : Half) :
    SameButUnwritten { s with ratio := s.ratio.set k x, ratioTag := s.ratioTag.set k true }
      { u with ratio := u.ratio.set k x, ratioTag := u.ratioTag.set k true } := by
  obtain ⟨hu, hk⟩ := h
  refine ⟨congrArg (fun v : State => { v with ratio := u.ratio.set k x, ratioTag := v.ratioTag.set k true }) hu,
    fun j => ⟨(hk j).1, ?_⟩⟩
  by_cases hj : j = k
  · simp [hj]
  · simpa [hj] using (hk j).2

theorem execPosSet (h : SameButUnwritten s u) (axis : Byte) (position : Full) :
    SameOutcome (execPosSet axis position s) (execPosSet axis position u) := by
  unfold Machine.execPosSet
  split
  · exact h.setStatus _
  · exact (h.writePosition _ position).setStatus _

theorem execRatioSet (h : SameButUnwritten s u) (axis : Byte) (ratio : Half) :
    SameOutcome (execRatioSet axis ratio s) (execRatioSet axis ratio u) := by
  unfold Machine.execRatioSet
  split
  · exact h.setStatus _
  · split
    · exact (h.writeRatio _ ratio).setStatus _
    · exact h.setStatus _

/-- Every other command leaves the operands as they are, and finds the same in them. -/
theorem exec_of_opcode_ne {i : Instr} (h : SameButUnwritten s u) (h1 : i.opcode ≠ .posSet) (h2 : i.opcode ≠ .ratioSet) :
    SameOutcome (exec i s) (exec i u) := by
  have hu : u.operands.apply s = u := h.1.symm
  have hread : u.operands.Unread s :=
    { position := by rw [hu, h.positionWord_eq], ratio := by rw [hu, h.ratioWord_eq] }
  have hexec := exec_apply hread { position := fun e => absurd e h1, ratio := fun e => absurd e h2 }
  rw [hu] at hexec
  rw [hexec]
  cases he : exec i s with
  | next t =>
    obtain ⟨hposIn, hposTag, hratio, hratioTag⟩ := exec_keeps_operands he h1 h2
    refine ⟨rfl, fun k => ?_⟩
    rw [hposIn, hposTag, hratio, hratioTag]
    exact h.2 k
  | fault r => rfl
  | refused r => rfl

theorem exec (h : SameButUnwritten s u) (i : Instr) : SameOutcome (exec i s) (exec i u) := by
  cases i with
  | posSet axis position => exact h.execPosSet axis position
  | ratioSet axis ratio => exact h.execRatioSet axis ratio
  | _ => exact h.exec_of_opcode_ne nofun nofun

theorem execWord (h : SameButUnwritten s u) (w : CommandWord) : SameOutcome (execWord w s) (execWord w u) := by
  cases hd : decode w with
  | command i =>
    rw [execWord_of_command hd, execWord_of_command hd]
    exact h.exec i
  | illegal why =>
    rw [execWord_of_illegal hd, execWord_of_illegal hd]
    exact h.setStatus _

theorem step (h : SameButUnwritten s u) : SameOutcome (step s) (step u) := by
  have hpending : u.pending = s.pending := (congrArg State.pending h.1 :)
  cases hp : s.pending with
  | nil =>
    rw [step_of_pending_nil hp, step_of_pending_nil (hpending.trans hp)]
    exact h
  | cons input rest =>
    cases input with
    | command w =>
      rw [step_of_pending_command hp, step_of_pending_command (hpending.trans hp)]
      exact (h.takeCommand rest).execWord w
    | reset =>
      rw [step_of_pending_reset hp, step_of_pending_reset (hpending.trans hp), h.takeReset_eq]
      exact refl _

end Sys2Proof.Claims.SameButUnwritten

namespace Sys2Proof.Machine

open Sys2Proof.Claims

/-- Settles O56: the port and every step find the same in the two states. -/
theorem unwrittenOperandsAreNeverSeen : Obligations.UnwrittenOperandsAreNeverSeen := by
  unfold Obligations.UnwrittenOperandsAreNeverSeen
  exact fun s u h => ⟨h.readPort_eq, h.step⟩

end Sys2Proof.Machine
end

section
/-! SUPPORT. The read port shows every register at the address of R15, and 0 elsewhere. -/

namespace Sys2Proof.Machine

variable {s : State}

theorem readPort_ofNat_of_addr {n : Nat} {r : Reg} (h : n = regAddr r) : readPort s (BitVec.ofNat 12 n) = regValue s r :=
  readPort_of_addr (by rw [BitVec.toNat_ofNat, h]; exact Nat.mod_eq_of_lt (regAddr_lt r))

/-- Settles O53: each register at its address, and no register at an address outside the map. -/
theorem readPortMap : Obligations.ReadPortMap := by
  unfold Obligations.ReadPortMap
  intro s
  refine ⟨rfl, rfl, rfl, rfl, rfl, rfl, rfl, rfl, rfl, rfl, rfl, rfl, fun k => ⟨?_, ?_, fun ht => ?_, ?_, fun ht => ?_⟩,
    fun i v hi hv => ?_, fun i v hi hv => ?_, fun i v hi hv => ?_, fun a ha => ?_⟩
  · exact readPort_ofNat_of_addr (r := .axf k) rfl
  · exact readPort_ofNat_of_addr (r := .calmax k) rfl
  · exact (readPort_ofNat_of_addr (r := .posIn k) rfl).trans (positionWord_of_tag ht)
  · exact readPort_ofNat_of_addr (r := .posOut k) rfl
  · exact (readPort_ofNat_of_addr (r := .ratio k) rfl).trans (congrArg (BitVec.setWidth 32) (ratioWord_of_tag ht))
  · exact (readPort_ofNat_of_addr (r := .dw ⟨i, by omega⟩) rfl).trans (congrArg (BitVec.setWidth 32) (dataWord_of_read hv))
  · exact (readPort_ofNat_of_addr (r := .txbuf ⟨i, by omega⟩) rfl).trans (congrArg (BitVec.setWidth 32) (txByte_of_read hv))
  · exact (readPort_ofNat_of_addr (r := .rxbuf ⟨i, by omega⟩) rfl).trans (congrArg (BitVec.setWidth 32) (rxByte_of_read hv))
  · refine readPort_unmapped fun r hr => ?_
    cases r <;> simp only [regAddr] at hr <;> omega

end Sys2Proof.Machine
end

section
/-! SUPPORT. The frame of each command (R41): what it may write, register by register, at the read-port addresses of R15. -/

namespace Sys2Proof.Machine

open Sys2Proof.Claims

variable {s t : State} {i : Instr}

/-- Every register and tag, STATUS aside, is one that the command writes (R41) or holds what it held. A field's default is a
register that the update from `s` to `t` does not touch. The inputs have `exec_keeps_inputs`. -/
structure Keeps (i : Instr) (s t : State) : Prop where
  rkind : Writes i s 0x001 ∨ t.rkind = s.rkind := by exact .inr rfl
  rcount : Writes i s 0x002 ∨ t.rcount = s.rcount := by exact .inr rfl
  excCode : Writes i s 0x003 ∨ t.excCode = s.excCode := by exact .inr rfl
  rxUnit : Writes i s 0x004 ∨ t.rxUnit = s.rxUnit := by exact .inr rfl
  rxFc : Writes i s 0x005 ∨ t.rxFc = s.rxFc := by exact .inr rfl
  lastCrc : Writes i s 0x006 ∨ t.lastCrc = s.lastCrc := by exact .inr rfl
  crc : Writes i s 0x007 ∨ t.crc = s.crc := by exact .inr rfl
  res : Writes i s 0x008 ∨ t.res = s.res := by exact .inr rfl
  flags : Writes i s 0x009 ∨ t.flags = s.flags := by exact .inr rfl
  txlen : Writes i s 0x00A ∨ t.txlen = s.txlen := by exact .inr rfl
  rxlen : Writes i s 0x00B ∨ t.rxlen = s.rxlen := by exact .inr rfl
  axf : ∀ k : Fin 6, Writes i s (0x011 + k) ∨ t.axf.get k = s.axf.get k := by exact fun _ => .inr rfl
  calmax : ∀ k : Fin 6, Writes i s (0x021 + k) ∨ t.calmax.get k = s.calmax.get k := by exact fun _ => .inr rfl
  position : ∀ k : Fin 6, Writes i s (0x031 + k) ∨ (t.posIn.get k = s.posIn.get k ∧ t.posTag.get k = s.posTag.get k) := by
    exact fun _ => .inr ⟨rfl, rfl⟩
  posOut : ∀ k : Fin 6, Writes i s (0x041 + k) ∨ t.posOut.get k = s.posOut.get k := by exact fun _ => .inr rfl
  ratio : ∀ k : Fin 6, Writes i s (0x051 + k) ∨ (t.ratio.get k = s.ratio.get k ∧ t.ratioTag.get k = s.ratioTag.get k) := by
    exact fun _ => .inr ⟨rfl, rfl⟩
  dw : ∀ j, Writes i s (0x100 + j) ∨ t.dw.read j = s.dw.read j := by exact fun _ => .inr rfl
  txbuf : ∀ j, Writes i s (0x200 + j) ∨ t.txbuf.read j = s.txbuf.read j := by exact fun _ => .inr rfl
  rxbuf : ∀ j, Writes i s (0x300 + j) ∨ t.rxbuf.read j = s.rxbuf.read j := by exact fun _ => .inr rfl
  noresp : t.noresp = s.noresp := by rfl
  resets : t.resets = s.resets := by rfl

/-! ### The updates that several outcomes share -/

theorem Keeps.setStatus (c : Status) : Keeps i s (s.setStatus c) := {}

/-- A frame in TXBUF (R76): the command lists LASTCRC, TXLEN and the bytes of the frame. -/
theorem Keeps.withFrame {body : List Byte}
    (hw : ∀ a, a = 0x006 ∨ a = 0x00A ∨ (0x200 ≤ a ∧ a < 0x202 + body.length) → Writes i s a) :
    Keeps i s (s.withFrame body) where
  lastCrc := .inl (hw _ (.inl rfl))
  txlen := .inl (hw _ (.inr (.inl rfl)))
  txbuf j := by
    by_cases hj : j < body.length + 2
    · exact .inl (hw _ (by omega))
    · exact .inr (by simp [State.withFrame, Mem.read_writeList, le16, hj])

/-- DEC_RESP may write every detail register, in any outcome, and words of DW (R90). -/
theorem Keeps.decResp {fe : Byte} {cnt : Half} (status rkind rcount excCode rxUnit rxFc : Byte) (lastCrc : Half) (m : Mem 16)
    (hdw : ∀ j, Writes (.decResp fe cnt) s (0x100 + j) ∨ m.read j = s.dw.read j) :
    Keeps (.decResp fe cnt) s
      { s with status := status, rkind := rkind, rcount := rcount, excCode := excCode, rxUnit := rxUnit, rxFc := rxFc,
               lastCrc := lastCrc, dw := m } :=
  have hdetail : ∀ a, 1 ≤ a ∧ a ≤ 6 → Writes (.decResp fe cnt) s a := fun _ ha => .inr (.inl ha)
  { rkind := .inl (hdetail _ (by decide))
    rcount := .inl (hdetail _ (by decide))
    excCode := .inl (hdetail _ (by decide))
    rxUnit := .inl (hdetail _ (by decide))
    rxFc := .inl (hdetail _ (by decide))
    lastCrc := .inl (hdetail _ (by decide))
    dw := hdw }

/-- As `Keeps.decResp`, for an outcome that returns no register. -/
theorem Keeps.decResp_details {fe : Byte} {cnt : Half} (status rkind rcount excCode rxUnit rxFc : Byte) (lastCrc : Half) :
    Keeps (.decResp fe cnt) s
      { s with status := status, rkind := rkind, rcount := rcount, excCode := excCode, rxUnit := rxUnit, rxFc := rxFc,
               lastCrc := lastCrc } :=
  .decResp status rkind rcount excCode rxUnit rxFc lastCrc s.dw fun _ => .inr rfl

theorem Keeps.execDecResp {fe : Byte} {cnt : Half} (he : execDecResp fe cnt s = .next t) : Keeps (.decResp fe cnt) s t := by
  rcases execDecResp_next he with ⟨-, rfl⟩ | ⟨hop, ⟨-, rfl⟩ | ⟨-, -, rfl⟩ | ⟨-, -, hresponse⟩⟩
  · exact .setStatus _
  · exact .decResp_details ..
  · exact .decResp_details ..
  rcases hresponse with ⟨-, ⟨-, rfl⟩ | ⟨-, rfl⟩⟩ | ⟨-, -, rfl⟩ | ⟨-, -, -, rfl⟩ | ⟨-, -, hfe, ⟨-, rfl⟩ | ⟨-, rfl⟩⟩
  · exact .decResp_details ..
  · exact .decResp_details ..
  · exact .decResp_details ..
  · exact .decResp_details ..
  · exact .decResp_details ..
  · obtain ⟨hfe, -⟩ := (expectationOk_iff.mp hop).resolve_right hfe
    refine .decResp _ _ _ _ _ _ _ _ fun j => ?_
    by_cases hj : j < cnt.toNat
    · exact .inl (.inr (.inr ⟨hfe, by omega, by omega⟩))
    · exact .inr ((Mem.read_writeList s.dw 0 j _).trans (if_neg (by rw [responseValues_length]; omega)))

/-- RES is the one register of the address generator (R97, R98). -/
theorem Keeps.generateAddress {base : Half} {axis : Byte} {stride : Nat} (hres : Writes i s 0x008)
    (he : generateAddress base axis stride s = .next t) : Keeps i s t := by
  rcases generateAddress_next he with ⟨-, rfl⟩ | ⟨-, -, a, -, rfl⟩
  · exact .setStatus _
  · exact { res := .inl hres }

/-! ### Commands -/

/-- Each command writes STATUS and what R41 lists for it: an outcome that raises writes no register but the details of
CRC_CHECK and DEC_RESP. -/
theorem Keeps.exec (he : exec i s = .next t) : Keeps i s t := by
  cases i with
  | crcInit =>
    obtain rfl := execCrcInit_next he
    exact { crc := .inl (.inr rfl) }
  | crcByte b =>
    obtain rfl := execCrcByte_next he
    exact { crc := .inl (.inr rfl) }
  | crcCheck =>
    rcases execCrcCheck_next he with ⟨-, rfl⟩ | ⟨-, -, rfl⟩ | ⟨-, -, rfl⟩ <;> exact { lastCrc := .inl (.inr rfl) }
  | rxClear =>
    obtain rfl := execRxClear_next he
    exact { rxlen := .inl (.inr rfl) }
  | rxPush b =>
    rcases execRxPush_next he with ⟨-, rfl⟩ | ⟨-, rfl⟩
    · exact .setStatus _
    refine { rxlen := .inl (.inr (.inl rfl)), rxbuf := fun j => ?_ }
    by_cases hj : j = s.rxlen.toNat
    · exact .inl (.inr (.inr (by rw [hj])))
    · exact .inr (Mem.read_write_other _ _ hj)
  | dwWrite index value =>
    rcases execDwWrite_next he with ⟨-, rfl⟩ | ⟨-, rfl⟩
    · exact .setStatus _
    refine { dw := fun j => ?_ }
    by_cases hj : j = index.toNat
    · exact .inl (.inr (by rw [hj]))
    · exact .inr (Mem.read_write_other _ _ hj)
  | encRead unit address count =>
    rcases execEncRead_next he with ⟨-, rfl⟩ | ⟨-, -, -, rfl⟩
    · exact .setStatus _
    · exact .withFrame fun a ha => .inr (by rw [shortBody_length] at ha; omega)
  | encWrite1 unit address value =>
    rcases execEncWrite1_next he with ⟨-, rfl⟩ | ⟨-, rfl⟩
    · exact .setStatus _
    · exact .withFrame fun a ha => .inr (by rw [shortBody_length] at ha; omega)
  | encWriteN unit address count =>
    rcases execEncWriteN_next he with ⟨-, rfl⟩ | ⟨-, -, -, rfl⟩
    · exact .setStatus _
    · exact .withFrame fun a ha => .inr (by rw [writeBody_length, stagedWords_length] at ha; omega)
  | decResp fe cnt => exact .execDecResp he
  | addrLinear base axis => exact .generateAddress (.inr rfl) he
  | addrForce base axis => exact .generateAddress (.inr rfl) he
  | packUniform mode =>
    obtain rfl := execPackUniform_next he
    exact { res := .inl (.inr rfl) }
  | packAxis axis mode =>
    rcases execPackAxis_next he with ⟨-, rfl⟩ | ⟨k, -, rfl⟩ <;> exact { res := .inl (.inr rfl) }
  | unpack word =>
    obtain rfl := execUnpack_next he
    exact { axf := fun k => .inl (.inr (by omega)) }
  | unpackDw index =>
    rcases execUnpackDw_next he with ⟨-, rfl⟩ | ⟨-, rfl⟩ <;> exact { axf := fun k => .inl (.inr (by omega)) }
  | calLoad =>
    rcases execCalLoad_next he with ⟨-, rfl⟩ | ⟨-, rfl⟩ <;>
      exact { flags := .inl (.inr (.inl rfl)), calmax := fun k => .inl (.inr (.inr (by omega))) }
  | calClear =>
    obtain rfl := execCalClear_next he
    exact { flags := .inl (.inr rfl) }
  | posSet axis position =>
    rcases execPosSet_next he with ⟨-, rfl⟩ | ⟨k, hk, rfl⟩
    · exact .setStatus _
    have haddr : 0x031 + k.val = 0x030 + axis.toNat := by omega
    refine { position := fun j => ?_ }
    by_cases hj : j = k
    · exact .inl (.inr (hj ▸ haddr))
    · exact .inr (by simp [hj])
  | ratioSet axis ratio =>
    rcases execRatioSet_next he with ⟨-, rfl⟩ | ⟨k, hk, -, rfl⟩
    · exact .setStatus _
    have haddr : 0x051 + k.val = 0x050 + axis.toNat := by omega
    refine { ratio := fun j => ?_ }
    by_cases hj : j = k
    · exact .inl (.inr (hj ▸ haddr))
    · exact .inr (by simp [hj])
  | clamp =>
    rcases execClamp_next he with ⟨-, rfl⟩ | ⟨-, -, rfl⟩ | ⟨-, -, rfl⟩ <;>
      exact { flags := .inl (.inr (.inl rfl)), posOut := fun k => .inl (.inr (.inr (by omega))) }
  | clampRatio =>
    rcases execClampRatio_next he with ⟨-, rfl⟩ | ⟨-, -, rfl⟩ | ⟨-, -, rfl⟩ <;>
      exact { posOut := fun k => .inl (.inr (by omega)) }

/-! ### The frame at the read port -/

/-- A register that the command does not list shows what it showed; a free value depends on the counter of resets only. -/
theorem Keeps.regValue_eq (h : Keeps i s t) {r : Reg} (hw : ¬ Writes i s (regAddr r)) : regValue t r = regValue s r := by
  cases r with
  | status => exact absurd (.inl rfl) hw
  | rkind => exact congrArg (BitVec.setWidth 32) (h.rkind.resolve_left hw)
  | rcount => exact congrArg (BitVec.setWidth 32) (h.rcount.resolve_left hw)
  | excCode => exact congrArg (BitVec.setWidth 32) (h.excCode.resolve_left hw)
  | rxUnit => exact congrArg (BitVec.setWidth 32) (h.rxUnit.resolve_left hw)
  | rxFc => exact congrArg (BitVec.setWidth 32) (h.rxFc.resolve_left hw)
  | lastCrc => exact congrArg (BitVec.setWidth 32) (h.lastCrc.resolve_left hw)
  | crc => exact congrArg (BitVec.setWidth 32) (h.crc.resolve_left hw)
  | res => exact congrArg (BitVec.setWidth 32) (h.res.resolve_left hw)
  | flags => exact congrArg (BitVec.setWidth 32) (h.flags.resolve_left hw)
  | txlen => exact congrArg (BitVec.setWidth 32) (h.txlen.resolve_left hw)
  | rxlen => exact congrArg (BitVec.setWidth 32) (h.rxlen.resolve_left hw)
  | axf k => exact congrArg (BitVec.setWidth 32) ((h.axf k).resolve_left hw)
  | calmax k => exact congrArg (BitVec.setWidth 32) ((h.calmax k).resolve_left hw)
  | posIn k =>
    obtain ⟨hword, htag⟩ := (h.position k).resolve_left hw
    simp only [regValue, positionWord, hword, htag, h.resets]
  | posOut k => exact (h.posOut k).resolve_left hw
  | ratio k =>
    obtain ⟨hword, htag⟩ := (h.ratio k).resolve_left hw
    simp only [regValue, ratioWord, hword, htag, h.resets]
  | dw j => simp only [regValue, dataWord, (h.dw j).resolve_left hw, h.resets]
  | txbuf j => simp only [regValue, txByte, (h.txbuf j).resolve_left hw, h.resets]
  | rxbuf j => simp only [regValue, rxByte, (h.rxbuf j).resolve_left hw, h.resets]

/-- Settles O54: the frame of each command, shown at the read port and in the tags. -/
theorem commandWritesOnlyItsRegisters : Obligations.CommandWritesOnlyItsRegisters := by
  unfold Obligations.CommandWritesOnlyItsRegisters
  intro i s t he
  have h := Keeps.exec he
  obtain ⟨hpending, hindex⟩ := exec_keeps_inputs he
  refine ⟨fun a hw => readPort_congr fun r hr => h.regValue_eq (hr ▸ hw), fun k hw => ?_, fun k hw => ?_,
    fun j _ hw => (h.dw j).resolve_left hw, h.noresp, hindex, hpending, h.resets⟩
  · exact ((h.position k).resolve_left hw).2
  · exact ((h.ratio k).resolve_left hw).2

end Sys2Proof.Machine
end

section
/-! SUPPORT. Commands repeated (R43): a command finds the same in the state it leaves, and writes the same there again. -/

namespace Sys2Proof.Machine

open Sys2Proof.Claims

variable {s t : State} {i : Instr}

/-! ### Updates made twice -/

theorem Mem.writeList_twice {n : Nat} {m : Mem n} (h : m.wf) (i : Nat) (l : List (BitVec n)) :
    (m.writeList i l).writeList i l = m.writeList i l := by
  have hwf := Mem.wf_writeList h i l
  refine Mem.ext_read (Mem.wf_writeList hwf i l) hwf fun j => ?_
  simp only [Mem.read_writeList]
  split <;> rfl

theorem Mem.write_twice {n : Nat} {m : Mem n} (h : m.wf) (i : Nat) (v : BitVec n) :
    (m.write i v).write i v = m.write i v :=
  Mem.writeList_twice h i [v]

theorem Axes.set_twice {α : Type} (v : Axes α) (k : Fin 6) (x : α) : (v.set k x).set k x = v.set k x := by
  refine Axes.ext_get fun j => ?_
  simp only [Axes.get_set]
  split <;> rfl

theorem withCalValid_twice (b : Bool) (f : BitVec 2) : withCalValid b (withCalValid b f) = withCalValid b f := by
  revert b f
  decide

theorem withUncal_twice (b : Bool) (f : BitVec 2) : withUncal b (withUncal b f) = withUncal b f := by
  revert b f
  decide

theorem withFrame_twice (h : s.txbuf.wf) (body : List Byte) : (s.withFrame body).withFrame body = s.withFrame body :=
  congrArg (fun m => { s.withFrame body with txbuf := m }) (Mem.writeList_twice h 0 _)

/-- No command reads STATUS, and every command writes it: after a command that wrote STATUS only, it does what it did. -/
theorem exec_setStatus (i : Instr) (s : State) (c : Status) : exec i (s.setStatus c) = exec i s := by
  cases i <;> rfl

/-! ### Checks made twice -/

/-- A check that answers the same again leaves each of its two outcomes to be repeated. -/
theorem ite_repeats {c : Prop} [Decidable c] {a a' b b' : Result} (ha : a = .next t → a' = .next t)
    (hb : b = .next t → b' = .next t) (he : (if c then a else b) = .next t) : (if c then a' else b') = .next t := by
  by_cases h : c
  · rw [if_pos h] at he ⊢
    exact ha he
  · rw [if_neg h] at he ⊢
    exact hb he

/-- A frame built from what the frame does not touch is built again. -/
theorem finishFrame_repeats {body : State → List Byte} (h : s.txbuf.wf) (hbody : ∀ b, body (s.withFrame b) = body s)
    (he : finishFrame (body s) s = .next t) : finishFrame (body t) t = .next t := by
  rw [finishFrame_eq] at he ⊢
  cases he
  rw [hbody, withFrame_twice h]

theorem raise_repeats {c : Status} (he : raise c s = .next t) : raise c t = .next t := by
  cases he
  rfl

theorem generateAddress_repeats {base : Half} {axis : Byte} {stride : Nat}
    (he : generateAddress base axis stride s = .next t) : generateAddress base axis stride t = .next t := by
  unfold generateAddress at he ⊢
  split at he
  · exact raise_repeats he
  · split at he
    · exact raise_repeats he
    · cases he
      rfl

/-! ### DEC_RESP -/

section

variable {fe : Byte} {cnt : Half}

theorem takeException_repeats (he : takeException s = .next t) : takeException t = .next t := by
  rcases takeException_next he with ⟨hack, rfl⟩ | ⟨hack, rfl⟩
  · exact if_pos hack
  · exact if_neg hack

theorem takeRegisters_repeats (h : s.dw.wf) (he : takeRegisters cnt s = .next t) : takeRegisters cnt t = .next t := by
  unfold takeRegisters at he
  split at he <;> rename_i hcount <;> cases he
  · exact if_pos hcount
  · refine (if_neg hcount).trans ?_
    exact congrArg (fun m => done { s.withRegisters cnt.toNat with dw := m }) (Mem.writeList_twice h 0 _)

/-- The checks after the checksum touch neither the received bytes nor what has been recorded of them. -/
theorem takeResponse_frame (he : takeResponse fe cnt s = .next t) :
    t = { s with status := t.status, rkind := t.rkind, rcount := t.rcount, excCode := t.excCode, dw := t.dw } := by
  unfold takeResponse takeException takeRegisters at he
  repeat' split at he
  all_goals
    cases he
    rfl

theorem takeResponse_repeats (h : s.dw.wf) (he : takeResponse fe cnt s = .next t) : takeResponse fe cnt t = .next t := by
  have hcode : rxByte t 1 = rxByte s 1 := by
    rw [takeResponse_frame he]
    rfl
  unfold takeResponse at he ⊢
  rw [hcode]
  refine ite_repeats takeException_repeats (ite_repeats ?_ (ite_repeats ?_ (takeRegisters_repeats h))) he <;>
  · intro hnext
    cases hnext
    rfl

/-- DEC_RESP reads RXBUF, RXLEN and P_NORESP, and writes none of them: every check falls out as before, and a frame recorded
once is recorded as it stands. -/
theorem execDecResp_repeats (h : s.dw.wf) (he : execDecResp fe cnt s = .next t) : execDecResp fe cnt t = .next t := by
  unfold execDecResp at he
  split at he
  case isFalse hop =>
    cases he
    exact if_neg hop
  case isTrue hop =>
  refine (if_pos hop).trans ?_
  split at he
  case isTrue hlt =>
    cases he
    exact if_pos hlt
  case isFalse hlt =>
  split at he
  case isTrue hcrc =>
    cases he
    exact (if_neg hlt).trans (if_pos hcrc)
  case isFalse hcrc =>
  have ht := takeResponse_frame he
  have hlen : t.rxlen = s.rxlen := (congrArg State.rxlen ht :)
  have hcomputed : computedCrc t = computedCrc s := by
    rw [ht]
    rfl
  have hreceived : receivedCrc t = receivedCrc s := by
    rw [ht]
    rfl
  have hheader : t.withHeader = t := by
    rw [State.withHeader, hcomputed, ht]
    rfl
  rw [hlen, if_neg hlt, hcomputed, hreceived, if_neg hcrc, ← hcomputed]
  exact (congrArg (takeResponse fe cnt) hheader).trans (takeResponse_repeats (s := s.withHeader) h he)

end

/-! ### CLAMP -/

/-- CLAMP writes UNCAL, and its test is of CALVALID: the three outcomes stay apart. -/
theorem execClamp_repeats (he : execClamp s = .next t) : execClamp t = .next t := by
  rcases execClamp_next he with ⟨hcal, rfl⟩ | ⟨-, -, rfl⟩ | ⟨hcal, hbounds, rfl⟩
  · have hcal : ¬ calValid (withUncal true s.flags) = true := by simp [hcal]
    refine (if_neg hcal).trans ?_
    exact congrArg (fun f => done { s with posOut := Axes.ofFn (positionWord s), flags := f }) (withUncal_twice true s.flags)
  · exact (exec_setStatus .clamp s _).trans he
  · have hcal : calValid (withUncal false s.flags) = true := by simp [hcal]
    have hsome : ¬ someRangeEmpty s = true := Bool.eq_false_iff.mp (someRangeEmpty_eq_false.mpr hbounds)
    refine (if_pos hcal).trans ((if_neg hsome).trans ?_)
    exact congrArg (fun f => done { s with posOut := clampedOut s fun k => (positionWord s k).toInt, flags := f })
      (withUncal_twice false s.flags)

/-! ### Every command but CRC_BYTE and RX_PUSH -/

/-- R43: an outcome that writes STATUS only leaves what the command reads, and so does every other outcome. -/
theorem exec_repeats (h : s.Inv) (h1 : i.opcode ≠ .crcByte) (h2 : i.opcode ≠ .rxPush) (he : exec i s = .next t) :
    exec i t = .next t := by
  have raised : ∀ c, t = s.setStatus c → exec i t = .next t := by
    rintro c rfl
    rw [exec_setStatus, he]
  cases i with
  | crcByte b => exact absurd rfl h1
  | rxPush b => exact absurd rfl h2
  | crcInit =>
    obtain rfl := execCrcInit_next he
    rfl
  | crcCheck =>
    rcases execCrcCheck_next he with ⟨-, ht⟩ | ⟨h5, hcrc, rfl⟩ | ⟨h5, hcrc, rfl⟩
    · exact raised _ ht
    · exact (if_neg (not_lt.mpr h5)).trans (if_pos hcrc)
    · exact (if_neg (not_lt.mpr h5)).trans (if_neg (not_not.mpr hcrc))
  | rxClear =>
    obtain rfl := execRxClear_next he
    rfl
  | dwWrite index value =>
    rcases execDwWrite_next he with ⟨-, ht⟩ | ⟨hle, rfl⟩
    · exact raised _ ht
    · simp [exec, execDwWrite, dataIndex?_eq_some.mpr ⟨rfl, hle⟩, Mem.write_twice h.dwWf, State.setStatus]
  | encRead unit address count =>
    exact ite_repeats (finishFrame_repeats (body := fun _ => _) h.txWf fun _ => rfl) raise_repeats he
  | encWrite1 unit address value =>
    exact ite_repeats (finishFrame_repeats (body := fun _ => _) h.txWf fun _ => rfl) raise_repeats he
  | encWriteN unit address count =>
    exact ite_repeats (finishFrame_repeats (body := fun s => writeBody unit address count (stagedWords s count.toNat)) h.txWf
      fun _ => rfl) raise_repeats he
  | decResp fe cnt => exact execDecResp_repeats h.dwWf he
  | addrLinear base axis => exact generateAddress_repeats he
  | addrForce base axis => exact generateAddress_repeats he
  | packUniform mode =>
    obtain rfl := execPackUniform_next he
    rfl
  | packAxis axis mode =>
    rcases execPackAxis_next he with ⟨-, ht⟩ | ⟨k, hk, rfl⟩
    · exact raised _ ht
    · simp [exec, execPackAxis, axisSlot?_eq_some.mpr hk, State.setStatus]
  | unpack word =>
    obtain rfl := execUnpack_next he
    rfl
  | unpackDw index =>
    rcases execUnpackDw_next he with ⟨-, ht⟩ | ⟨hle, rfl⟩
    · exact raised _ ht
    · simp [exec, execUnpackDw, dataIndex?_eq_some.mpr ⟨rfl, hle⟩, State.setStatus, dataWord]
  | calLoad =>
    rcases execCalLoad_next he with ⟨-, ht⟩ | ⟨hcount, rfl⟩
    · exact raised _ ht
    · refine (if_pos hcount).trans ?_
      exact congrArg (fun f => done { s.withCalibration with flags := f }) (withCalValid_twice true s.flags)
  | calClear =>
    obtain rfl := execCalClear_next he
    exact congrArg (fun f => done { (s.setCalValid false).setStatus .ok with flags := f }) (withCalValid_twice false s.flags)
  | posSet axis position =>
    rcases execPosSet_next he with ⟨-, ht⟩ | ⟨k, hk, rfl⟩
    · exact raised _ ht
    · simp [exec, execPosSet, axisSlot?_eq_some.mpr hk, Axes.set_twice, State.setStatus]
  | ratioSet axis ratio =>
    rcases execRatioSet_next he with ⟨-, ht⟩ | ⟨k, hk, hr, rfl⟩
    · exact raised _ ht
    · simp [exec, execRatioSet, axisSlot?_eq_some.mpr hk, ratioOk_iff.mpr hr, Axes.set_twice, State.setStatus]
  | clamp => exact execClamp_repeats he
  | clampRatio =>
    rcases execClampRatio_next he with ⟨-, ht⟩ | ⟨-, -, ht⟩ | ⟨hcal, hbounds, rfl⟩
    · exact raised _ ht
    · exact raised _ ht
    · have hsome : ¬ someRangeEmpty s = true := Bool.eq_false_iff.mp (someRangeEmpty_eq_false.mpr hbounds)
      exact (if_pos hcal).trans (if_neg hsome)

/-! ### RXBUF and RXLEN -/

/-- RXBUF has one writer (R41). -/
theorem exec_keeps_rxbuf (he : exec i s = .next t) (h : i.opcode ≠ .rxPush) : t.rxbuf = s.rxbuf :=
  have h := apply_eq_of_exec (o := { rxbuf := fun _ => s.rxbuf }) {} { rxbuf := fun e => absurd e h } rfl he
  (congrArg State.rxbuf h :)

/-- RXLEN has two writers (R41). -/
theorem exec_keeps_rxlen (he : exec i s = .next t) (h1 : i.opcode ≠ .rxClear) (h2 : i.opcode ≠ .rxPush) :
    t.rxlen = s.rxlen := by
  refine (Keeps.exec he).rxlen.resolve_left fun hw => ?_
  cases i with
  | rxClear => exact h1 rfl
  | rxPush b => exact h2 rfl
  | _ =>
    simp only [Writes] at hw
    omega

/-- Settles O55: the repetition of every command but two, a byte that each of those two takes differently the second time, and
the writers of the receive buffer. -/
theorem repeatedCommandsChangeNothing : Obligations.RepeatedCommandsChangeNothing := by
  unfold Obligations.RepeatedCommandsChangeNothing
  refine ⟨fun i s t h h1 h2 he => exec_repeats h h1 h2 he, ⟨0x01, .reset, _, reset_inv, rfl, ?crc⟩,
    ⟨0x01, .reset, _, reset_inv, rfl, ?push⟩, fun i s t h1 h2 he => ⟨exec_keeps_rxbuf he h2, exec_keeps_rxlen he h1 h2⟩⟩
  case crc =>
    intro he
    have hcrc : crcStep 0xFFFF 0x01 = crcStep (crcStep 0xFFFF 0x01) 0x01 := (congrArg State.crc (execCrcByte_next he) :)
    exact absurd hcrc (by decide)
  case push =>
    intro he
    have hlen : (2#9 : BitVec 9) = 1#9 := congrArg State.rxlen (Host.Outcome.next.inj he)
    exact absurd hlen (by decide)

end Sys2Proof.Machine
end

section
/-! SUPPORT. The encoder and the decoder as inverses, the encoded word as a number, and the opcode byte of the words rejected
as reserved (30_encoding.md R51 to R56, R61), with the obligations they settle. -/

namespace Sys2Proof

open Sys2Proof.Claims

/-! ### Decode of encode (R61) -/

/-- The fixed bits of every command's word are those of its row. -/
theorem encode_fixedBits : ∀ i : Instr, Laws.FixedBits.Statement i
  | .crcInit => Laws.FixedBits.crcInit
  | .crcByte b => Laws.FixedBits.crcByte b
  | .crcCheck => Laws.FixedBits.crcCheck
  | .rxClear => Laws.FixedBits.rxClear
  | .rxPush b => Laws.FixedBits.rxPush b
  | .dwWrite index value => Laws.FixedBits.dwWrite index value
  | .encRead unit address count => Laws.FixedBits.encRead unit address count
  | .encWrite1 unit address value => Laws.FixedBits.encWrite1 unit address value
  | .encWriteN unit address count => Laws.FixedBits.encWriteN unit address count
  | .decResp fe cnt => Laws.FixedBits.decResp fe cnt
  | .addrLinear base axis => Laws.FixedBits.addrLinear base axis
  | .addrForce base axis => Laws.FixedBits.addrForce base axis
  | .packUniform mode => Laws.FixedBits.packUniform mode
  | .packAxis axis mode => Laws.FixedBits.packAxis axis mode
  | .unpack word => Laws.FixedBits.unpack word
  | .unpackDw index => Laws.FixedBits.unpackDw index
  | .calLoad => Laws.FixedBits.calLoad
  | .calClear => Laws.FixedBits.calClear
  | .posSet axis position => Laws.FixedBits.posSet axis position
  | .ratioSet axis ratio => Laws.FixedBits.ratioSet axis ratio
  | .clamp => Laws.FixedBits.clamp
  | .clampRatio => Laws.FixedBits.clampRatio

/-- The operand fields of a command's word hold its operands. -/
theorem instrOf_encode (i : Instr) : instrOf i.opcode (encode i) = i := by
  cases i <;> simp [instrOf, Instr.opcode, encode]

/-- Settles O1: the fixed bits of the word are right, and its operand fields give the operands back. -/
theorem decodeOfEncode : Obligations.DecodeOfEncode := by
  unfold Obligations.DecodeOfEncode
  exact fun i => decode_eq_command.mpr ⟨i.opcode, encode_fixedBits i, (instrOf_encode i).symm⟩

/-! ### Encode of decode (R52) -/

/-- A word is put together again from its own fields. -/
theorem wordOf_fields {w : CommandWord} {op : Opcode} (h : opField w = op.code) :
    wordOf op (aField w) (hField w) (wField w) (lField w) = w := by
  apply eq_of_fields <;> simp [h]

/-- V32 is W:L (R51). -/
theorem wordOfV32_v32Field (op : Opcode) (a : Byte) (w : CommandWord) :
    wordOfV32 op a (v32Field w) = wordOf op a 0 (wField w) (lField w) := by
  have hw : wField (wordOfV32 op a (v32Field w)) = wField w := by
    ext i hi
    interval_cases i <;> simp [wField, v32Field, wordOfV32]
  have hl : lField (wordOfV32 op a (v32Field w)) = lField w := by
    ext i hi
    interval_cases i <;> simp [lField, v32Field, wordOfV32]
  apply eq_of_fields <;> simp [hw, hl]

/-- Where the reserved bits of L are 0, the mode is all of L (R52). -/
theorem setWidth_modeField {w : CommandWord} (h : lField w &&& 0xFFFC#16 = 0) : (modeField w).setWidth 16 = lField w := by
  ext i hi
  replace h := congrArg (fun l => l.getLsbD i) h
  interval_cases i <;> simp_all [modeField, lField]

/-- A word whose fixed bits are right is the word of its command. -/
theorem encode_instrOf {w : CommandWord} {op : Opcode} (hw : w &&& op.format.mask = op.matchWord) :
    encode (instrOf op w) = w := by
  obtain ⟨hop, hfields⟩ := (fixedBits_iff _ op w).mp hw
  rw [← wordOf_fields hop]
  cases op <;> simp only [Opcode.format] at hfields <;>
    simp [instrOf, encode, hfields, setWidth_modeField, wordOfV32_v32Field]

/-- Settles O2: a word that decodes has the fixed bits of its row, so its operand fields are all there is to encode. -/
theorem encodeOfDecode : Obligations.EncodeOfDecode := by
  unfold Obligations.EncodeOfDecode
  intro w i hd
  obtain ⟨op, hw, rfl⟩ := decode_eq_command.mp hd
  exact encode_instrOf hw

/-! ### Words as numbers (R61) -/

/-- A word is the sum of its five fields (R51). -/
theorem toNat_eq_wordNat (w : CommandWord) :
    w.toNat = wordNat (opField w).toNat (aField w).toNat (hField w).toNat (wField w).toNat (lField w).toNat := by
  have hw := w.isLt
  simp only [opField, aField, hField, wField, lField, BitVec.extractLsb'_toNat, Nat.shiftRight_eq_div_pow, wordNat]
  omega

/-- A word is the sum of its upper fields and V32 (R51). -/
theorem toNat_eq_wordNat_v32Field (w : CommandWord) :
    w.toNat = wordNat (opField w).toNat (aField w).toNat (hField w).toNat 0 (v32Field w).toNat := by
  have hw := w.isLt
  simp only [opField, aField, hField, v32Field, BitVec.extractLsb'_toNat, Nat.shiftRight_eq_div_pow, wordNat]
  omega

theorem toNat_wordOf (op : Opcode) (a : Byte) (h w l : Half) :
    (wordOf op a h w l).toNat = wordNat op.code.toNat a.toNat h.toNat w.toNat l.toNat := by
  rw [toNat_eq_wordNat]
  simp

theorem toNat_wordOfV32 (op : Opcode) (a : Byte) (v : Full) :
    (wordOfV32 op a v).toNat = wordNat op.code.toNat a.toNat 0 0 v.toNat := by
  rw [toNat_eq_wordNat_v32Field]
  simp

/-- The encoder gives the sum of R61 for every command. -/
theorem toNat_encode (i : Instr) : (encode i).toNat = encodeNat i := by
  cases i <;> simp [-BitVec.toNat_setWidth, BitVec.toNat_setWidth_of_le, encode, encodeNat, toNat_wordOf, toNat_wordOfV32,
    Opcode.code]

/-- Settles O3: the sum for every command, and the rule's six examples by evaluation. -/
theorem encodedWordsAsNumbers : Obligations.EncodedWordsAsNumbers := by
  unfold Obligations.EncodedWordsAsNumbers
  exact ⟨toNat_encode, by decide⟩

/-! ### Reserved opcodes (R56) -/

/-- The decoder rejects a word as reserved by its opcode byte alone. -/
theorem decode_eq_reservedOpcode {w : CommandWord} :
    decode w = .illegal .reservedOpcode ↔ opcodeOfCode? (opField w) = none := by
  unfold decode
  cases opcodeOfCode? (opField w) with
  | none => simp
  | some op =>
    simp only [reduceCtorEq, iff_false]
    split <;> simp

theorem toNat_opField (w : CommandWord) : (opField w).toNat = w.toNat / 2 ^ 56 := by
  have hw := w.isLt
  simp only [opField, BitVec.extractLsb'_toNat, Nat.shiftRight_eq_div_pow]
  omega

/-- The bytes between the opcodes of R54 are the ranges of R56. -/
theorem opcodeOfCode?_eq_none {b : Byte} :
    opcodeOfCode? b = none ↔
      (b.toNat = 0x00 ∨ (0x04 ≤ b.toNat ∧ b.toNat ≤ 0x0F) ∨ (0x13 ≤ b.toNat ∧ b.toNat ≤ 0x1F) ∨
        (0x23 ≤ b.toNat ∧ b.toNat ≤ 0x2F) ∨ (0x31 ≤ b.toNat ∧ b.toNat ≤ 0x3F) ∨ (0x46 ≤ b.toNat ∧ b.toNat ≤ 0x4F) ∨
        (0x56 ≤ b.toNat ∧ b.toNat ≤ 0xFF)) := by
  have hb := b.isLt
  simp only [opcodeOfCode?, Opcode.all, Opcode.code, List.find?_eq_none, List.forall_mem_cons, List.not_mem_nil, beq_iff_eq,
    ← BitVec.toNat_inj, BitVec.toNat_ofNat, false_imp_iff, implies_true, and_true, Nat.reduceMod, Nat.reducePow]
  omega

/-- Settles O5: what is rejected as reserved is an opcode byte that R54 does not list. -/
theorem reservedOpcodesAreIllegal : Obligations.ReservedOpcodesAreIllegal := by
  unfold Obligations.ReservedOpcodesAreIllegal
  refine ⟨fun w => ?_, by decide⟩
  rw [decode_eq_reservedOpcode, opcodeOfCode?_eq_none, toNat_opField]

end Sys2Proof
end

section
/-! SUPPORT. Every word against the rows of the opcode table (30_encoding.md R55), every command against the ranges of its
operands (R57, R91, R97, R98), and the obligations they settle. -/

namespace Sys2Proof.Machine

open Sys2Proof.Claims

variable {s t : State} {i : Instr} {w : CommandWord}

/-! ### The rows of the opcode table -/

/-- The written-out columns of the opcode table are the masks of the formats and the shifted opcodes. -/
theorem tableRow_eq (op : Opcode) : tableRow op = (op.format.mask, op.matchWord) := by
  cases op <;> rfl

theorem decode_of_tableRow {op : Opcode} (h : w &&& (tableRow op).1 = (tableRow op).2) :
    decode w = .command (instrOf op w) := by
  rw [tableRow_eq] at h
  exact decode_eq_command.mpr ⟨op, h, rfl⟩

theorem decode_of_not_inTable (h : ¬ InTable w) : ∃ why, decode w = .illegal why :=
  decode_eq_illegal.mpr fun op hop => h ⟨op, by rwa [tableRow_eq]⟩

theorem execWord_of_not_inTable (h : ¬ InTable w) (s : State) : execWord w s = .next { s with status := 0x01#8 } := by
  obtain ⟨why, hd⟩ := decode_of_not_inTable h
  rw [execWord_of_illegal hd, setStatus_illegalCommand]

/-- Settles O4: a row that matches names the command, and the decoder rejects a word that no row matches. -/
theorem decodeIsTotal : Obligations.DecodeIsTotal := by
  unfold Obligations.DecodeIsTotal
  refine fun w => ⟨fun op hop => ?row, fun h => ⟨decode_of_not_inTable h, execWord_of_not_inTable h⟩⟩
  case row =>
    have hd := decode_of_tableRow hop
    exact ⟨instrOf op w, opcode_instrOf op w, hd, execWord_of_command hd⟩

/-! ### Operands in and out of range (R57) -/

/-- Every branch of every meaning ends in `done` or `raise` (R145). -/
theorem exec_completes (i : Instr) (s : State) : ∃ t, exec i s = .next t := by
  cases i <;>
    simp only [exec, execCrcInit, execCrcByte, execCrcCheck, execRxClear, execRxPush, execDwWrite, execEncRead,
      execEncWrite1, execEncWriteN, execDecResp, execAddrLinear, execAddrForce, execPackUniform, execPackAxis, execUnpack,
      execUnpackDw, execCalLoad, execCalClear, execPosSet, execRatioSet, execClamp, execClampRatio, generateAddress,
      takeResponse, takeException, takeRegisters, finishFrame] <;>
    repeat' split
  all_goals exact ⟨_, rfl⟩

/-- What an outcome says of the command's operands: INVALID_ARGUMENT and nothing else changed where a range is broken,
another STATUS where all hold (R57, R114). -/
def ChecksOperands (i : Instr) (s t : State) : Prop :=
  (i.wellFormed = false ∧ t = s.setStatus .invalidArgument) ∨
    (i.wellFormed = true ∧ ∃ u c, c ≠ .invalidArgument ∧ t = State.setStatus u c)

theorem ChecksOperands.accept (h : i.wellFormed = true) {u : State} {c : Status} (hc : c ≠ .invalidArgument := by decide) :
    ChecksOperands i s (u.setStatus c) :=
  .inr ⟨h, u, c, hc, rfl⟩

theorem ChecksOperands.refuse (h : ¬ i.wellFormed = true) : ChecksOperands i s (s.setStatus .invalidArgument) :=
  .inl ⟨Bool.eq_false_iff.mpr h, rfl⟩

theorem axisInRange_iff {axis : Byte} : axisInRange axis = true ↔ 1 ≤ axis.toNat ∧ axis.toNat ≤ 6 := decide_eq_true_iff

theorem indexInRange_iff {index : Byte} : indexInRange index = true ↔ index.toNat ≤ 124 := decide_eq_true_iff

theorem unitInRange_iff {unit : Byte} : unitInRange unit = true ↔ unit ≠ 0#8 := by
  rw [unitInRange, decide_eq_true_iff, ne_eq, ← BitVec.toNat_inj, Nat.one_le_iff_ne_zero]
  rfl

theorem addressFits_iff {base : Half} {axis : Byte} {stride : Nat} :
    addressFits base axis stride = true ↔ base.toNat + (axis.toNat - 1) * stride ≤ 0xFFFF := decide_eq_true_iff

/-! The ranges of each command, in the form in which the laws of the meanings state them. -/

theorem wellFormed_dwWrite {index : Byte} {value : Half} :
    (Instr.dwWrite index value).wellFormed = true ↔ index.toNat ≤ 124 := indexInRange_iff

theorem wellFormed_unpackDw {index : Byte} : (Instr.unpackDw index).wellFormed = true ↔ index.toNat ≤ 124 :=
  indexInRange_iff

theorem wellFormed_packAxis {axis : Byte} {mode : BitVec 2} :
    (Instr.packAxis axis mode).wellFormed = true ↔ 1 ≤ axis.toNat ∧ axis.toNat ≤ 6 := axisInRange_iff

theorem wellFormed_posSet {axis : Byte} {position : Full} :
    (Instr.posSet axis position).wellFormed = true ↔ 1 ≤ axis.toNat ∧ axis.toNat ≤ 6 := axisInRange_iff

theorem wellFormed_encWrite1 {unit : Byte} {address value : Half} :
    (Instr.encWrite1 unit address value).wellFormed = true ↔ unit ≠ 0#8 := unitInRange_iff

theorem wellFormed_encRead {unit : Byte} {address count : Half} :
    (Instr.encRead unit address count).wellFormed = true ↔ unit ≠ 0#8 ∧ 1 ≤ count.toNat ∧ count.toNat ≤ 125 := by
  rw [Instr.wellFormed, Bool.and_eq_true, unitInRange_iff, decide_eq_true_iff]

theorem wellFormed_encWriteN {unit : Byte} {address count : Half} :
    (Instr.encWriteN unit address count).wellFormed = true ↔ unit ≠ 0#8 ∧ 1 ≤ count.toNat ∧ count.toNat ≤ 123 := by
  rw [Instr.wellFormed, Bool.and_eq_true, unitInRange_iff, decide_eq_true_iff]

theorem wellFormed_ratioSet {axis : Byte} {ratio : Half} :
    (Instr.ratioSet axis ratio).wellFormed = true ↔ (1 ≤ axis.toNat ∧ axis.toNat ≤ 6) ∧ ratio.toNat ≤ 0x8000 := by
  rw [Instr.wellFormed, Bool.and_eq_true, axisInRange_iff, decide_eq_true_iff]

theorem wellFormed_decResp {fe : Byte} {cnt : Half} : (Instr.decResp fe cnt).wellFormed = expectationOk fe cnt := by
  rw [Bool.eq_iff_iff, expectationOk_iff]
  simp [Instr.wellFormed, or_assoc]

/-! ### The operand checks of the meanings -/

/-- ADDR_LINEAR and ADDR_FORCE, at the stride of each. -/
theorem generateAddress_checksOperands {base : Half} {axis : Byte} {stride : Nat}
    (hwf : i.wellFormed = (axisInRange axis && addressFits base axis stride))
    (he : generateAddress base axis stride s = .next t) : ChecksOperands i s t := by
  have hrange : i.wellFormed = true ↔
      (1 ≤ axis.toNat ∧ axis.toNat ≤ 6) ∧ base.toNat + (axis.toNat - 1) * stride ≤ 0xFFFF := by
    rw [hwf, Bool.and_eq_true, axisInRange_iff, addressFits_iff]
  rcases generateAddress_next he with ⟨hbad, rfl⟩ | ⟨h1, h6, a, ha, rfl⟩
  · exact .refuse (mt hrange.mp (by omega))
  · exact .accept (hrange.mpr ⟨⟨h1, h6⟩, by omega⟩)

theorem execDecResp_checksOperands {fe : Byte} {cnt : Half} (he : execDecResp fe cnt s = .next t) :
    ChecksOperands (.decResp fe cnt) s t := by
  rcases execDecResp_next he with ⟨hbad, rfl⟩ | ⟨hok, houtcomes⟩
  · exact .refuse (Bool.eq_false_iff.mp (wellFormed_decResp.trans hbad))
  · have hwf := wellFormed_decResp.trans hok
    rcases houtcomes with ⟨-, rfl⟩ | ⟨-, -, rfl⟩ | ⟨-, -, ⟨-, ⟨-, rfl⟩ | ⟨-, rfl⟩⟩ | ⟨-, -, rfl⟩ | ⟨-, -, -, rfl⟩ |
      ⟨-, -, -, ⟨-, rfl⟩ | ⟨-, rfl⟩⟩⟩ <;>
    exact .accept hwf

/-- The checks that the meanings make are the ranges that `wellFormed` states apart from them. -/
theorem exec_checksOperands (he : exec i s = .next t) : ChecksOperands i s t := by
  cases i with
  | crcInit =>
    obtain rfl := execCrcInit_next he
    exact .accept rfl
  | crcByte b =>
    obtain rfl := execCrcByte_next he
    exact .accept rfl
  | crcCheck =>
    rcases execCrcCheck_next he with ⟨-, rfl⟩ | ⟨-, -, rfl⟩ | ⟨-, -, rfl⟩ <;> exact .accept rfl
  | rxClear =>
    obtain rfl := execRxClear_next he
    exact .accept rfl
  | rxPush b =>
    rcases execRxPush_next he with ⟨-, rfl⟩ | ⟨-, rfl⟩ <;> exact .accept rfl
  | dwWrite index value =>
    rcases execDwWrite_next he with ⟨hbad, rfl⟩ | ⟨hok, rfl⟩
    · exact .refuse (mt wellFormed_dwWrite.mp (not_le.mpr hbad))
    · exact .accept (wellFormed_dwWrite.mpr hok)
  | encRead unit address count =>
    rcases execEncRead_next he with ⟨hbad, rfl⟩ | ⟨hunit, h1, h125, rfl⟩
    · exact .refuse (mt wellFormed_encRead.mp (by rcases hbad with rfl | hbad <;> [simp; omega]))
    · exact .accept (wellFormed_encRead.mpr ⟨hunit, h1, h125⟩)
  | encWrite1 unit address value =>
    rcases execEncWrite1_next he with ⟨hbad, rfl⟩ | ⟨hunit, rfl⟩
    · exact .refuse (mt wellFormed_encWrite1.mp (not_not.mpr hbad))
    · exact .accept (wellFormed_encWrite1.mpr hunit)
  | encWriteN unit address count =>
    rcases execEncWriteN_next he with ⟨hbad, rfl⟩ | ⟨hunit, h1, h123, rfl⟩
    · exact .refuse (mt wellFormed_encWriteN.mp (by rcases hbad with rfl | hbad <;> [simp; omega]))
    · exact .accept (wellFormed_encWriteN.mpr ⟨hunit, h1, h123⟩)
  | decResp fe cnt => exact execDecResp_checksOperands he
  | addrLinear base axis => exact generateAddress_checksOperands rfl he
  | addrForce base axis => exact generateAddress_checksOperands rfl he
  | packUniform mode =>
    obtain rfl := execPackUniform_next he
    exact .accept rfl
  | packAxis axis mode =>
    rcases execPackAxis_next he with ⟨hbad, rfl⟩ | ⟨k, hk, rfl⟩
    · exact .refuse (mt wellFormed_packAxis.mp (by omega))
    · exact .accept (wellFormed_packAxis.mpr (by omega))
  | unpack word =>
    obtain rfl := execUnpack_next he
    exact .accept rfl
  | unpackDw index =>
    rcases execUnpackDw_next he with ⟨hbad, rfl⟩ | ⟨hok, rfl⟩
    · exact .refuse (mt wellFormed_unpackDw.mp (not_le.mpr hbad))
    · exact .accept (wellFormed_unpackDw.mpr hok)
  | calLoad =>
    rcases execCalLoad_next he with ⟨-, rfl⟩ | ⟨-, rfl⟩ <;> exact .accept rfl
  | calClear =>
    obtain rfl := execCalClear_next he
    exact .accept rfl
  | posSet axis position =>
    rcases execPosSet_next he with ⟨hbad, rfl⟩ | ⟨k, hk, rfl⟩
    · exact .refuse (mt wellFormed_posSet.mp (by omega))
    · exact .accept (wellFormed_posSet.mpr (by omega))
  | ratioSet axis ratio =>
    rcases execRatioSet_next he with ⟨hbad, rfl⟩ | ⟨k, hk, hr, rfl⟩
    · exact .refuse (mt wellFormed_ratioSet.mp (by omega))
    · exact .accept (wellFormed_ratioSet.mpr ⟨by omega, hr⟩)
  | clamp =>
    rcases execClamp_next he with ⟨-, rfl⟩ | ⟨-, -, rfl⟩ | ⟨-, -, rfl⟩ <;> exact .accept rfl
  | clampRatio =>
    rcases execClampRatio_next he with ⟨-, rfl⟩ | ⟨-, -, rfl⟩ | ⟨-, -, rfl⟩ <;> exact .accept rfl

theorem statusCode_eq_invalidArgument {c : Status} : statusCode c = 0x02#8 ↔ c = .invalidArgument := by
  cases c <;> decide

theorem exec_of_not_wellFormed (h : i.wellFormed = false) (s : State) :
    exec i s = .next (s.setStatus .invalidArgument) := by
  obtain ⟨t, he⟩ := exec_completes i s
  rcases exec_checksOperands he with ⟨-, rfl⟩ | ⟨hwf, -⟩
  · exact he
  · exact absurd hwf (Bool.eq_false_iff.mp h)

theorem status_of_wellFormed (h : i.wellFormed = true) (he : exec i s = .next t) : t.status ≠ 0x02#8 := by
  rcases exec_checksOperands he with ⟨hwf, -⟩ | ⟨-, u, c, hc, rfl⟩
  · exact absurd h (Bool.eq_false_iff.mp hwf)
  · exact mt statusCode_eq_invalidArgument.mp hc

/-- Settles O11: a command out of range and one in range by what the operand checks say, a word of no row by its decode. -/
theorem outOfRangeOperandFails : Obligations.OutOfRangeOperandFails := by
  unfold Obligations.OutOfRangeOperandFails
  exact ⟨fun i s h => exec_of_not_wellFormed h s, fun i s t h he => status_of_wellFormed h he,
    fun w s h => execWord_of_not_inTable h s⟩

/-- Settles O6: the five words by evaluation; axis 7 is out of range. -/
theorem decodeExamples : Obligations.DecodeExamples := by
  unfold Obligations.DecodeExamples
  exact ⟨by decide, by decide, by decide, by decide, by decide, exec_of_not_wellFormed (by decide)⟩

end Sys2Proof.Machine
end

section
/-! SUPPORT. The assembler on operand lists (30_encoding.md R59): which numbers fit a field, which lists
each shape of command takes, and the obligation they settle. -/

namespace Sys2Proof.Machine

open Sys2Proof.Claims

variable {α β γ : Type} {l : List Int} {i j : Instr}

/-! ### Numbers that fit a field -/

theorem fitUnsigned_ofNat {n k : Nat} (h : k < 2 ^ n) : fitUnsigned n k = some (BitVec.ofNat n k) :=
  if_pos ⟨Int.natCast_nonneg k, h⟩

theorem fitUnsigned_eq_some {n : Nat} {x : Int} {a : BitVec n} : fitUnsigned n x = some a ↔ x = a.toNat := by
  constructor
  · intro h
    obtain ⟨⟨h0, hlt⟩, ha⟩ := Option.ite_none_right_eq_some.mp h
    cases ha
    rw [BitVec.toNat_ofNat, Nat.mod_eq_of_lt hlt, Int.toNat_of_nonneg h0]
  · rintro rfl
    rw [fitUnsigned_ofNat a.isLt, BitVec.ofNat_toNat, BitVec.setWidth_eq]

theorem fitPosition_eq_some {x : Int} {a : Full} : fitPosition x = some a ↔ x = a.toInt := by
  constructor
  · intro h
    obtain ⟨⟨hlo, hhi⟩, ha⟩ := Option.ite_none_right_eq_some.mp h
    cases ha
    rw [BitVec.toInt_ofInt]
    exact (Int.bmod_eq_of_le (by omega) (by omega)).symm
  · rintro rfl
    rw [fitPosition, BitVec.ofInt_toInt]
    exact if_pos ⟨BitVec.le_toInt a, by have := BitVec.toInt_lt (x := a); omega⟩

/-! ### Operand lists by their length -/

theorem assembleNone_eq_some : assembleNone j l = some i ↔ l = [] ∧ i = j := by
  cases l with
  | nil => simp [assembleNone, eq_comm]
  | cons x rest => simp [assembleNone]

theorem assembleOne_eq_some {f : α → Instr} {fit : Int → Option α} {val : α → Int}
    (hfit : ∀ {x a}, fit x = some a ↔ x = val a) : assembleOne f fit l = some i ↔ ∃ a, l = [val a] ∧ i = f a := by
  constructor
  · intro h
    unfold assembleOne at h
    split at h
    · obtain ⟨a, ha, rfl⟩ := Option.map_eq_some_iff.mp h
      exact ⟨a, by rw [hfit.mp ha], rfl⟩
    · cases h
  · rintro ⟨a, rfl, rfl⟩
    simp [assembleOne, hfit.mpr rfl]

theorem assembleTwo_eq_some {f : α → β → Instr} {fit1 : Int → Option α} {fit2 : Int → Option β} {val1 : α → Int}
    {val2 : β → Int} (hfit1 : ∀ {x a}, fit1 x = some a ↔ x = val1 a) (hfit2 : ∀ {y b}, fit2 y = some b ↔ y = val2 b) :
    assembleTwo f fit1 fit2 l = some i ↔ ∃ a b, l = [val1 a, val2 b] ∧ i = f a b := by
  constructor
  · intro h
    unfold assembleTwo at h
    split at h
    · split at h
      · rename_i a b ha hb
        cases h
        exact ⟨a, b, by rw [hfit1.mp ha, hfit2.mp hb], rfl⟩
      · cases h
    · cases h
  · rintro ⟨a, b, rfl, rfl⟩
    simp [assembleTwo, hfit1.mpr rfl, hfit2.mpr rfl]

theorem assembleThree_eq_some {f : α → β → γ → Instr} {fit1 : Int → Option α} {fit2 : Int → Option β}
    {fit3 : Int → Option γ} {val1 : α → Int} {val2 : β → Int} {val3 : γ → Int}
    (hfit1 : ∀ {x a}, fit1 x = some a ↔ x = val1 a) (hfit2 : ∀ {y b}, fit2 y = some b ↔ y = val2 b)
    (hfit3 : ∀ {z c}, fit3 z = some c ↔ z = val3 c) :
    assembleThree f fit1 fit2 fit3 l = some i ↔ ∃ a b c, l = [val1 a, val2 b, val3 c] ∧ i = f a b c := by
  constructor
  · intro h
    unfold assembleThree at h
    split at h
    · split at h
      · rename_i a b c ha hb hc
        cases h
        exact ⟨a, b, c, by rw [hfit1.mp ha, hfit2.mp hb, hfit3.mp hc], rfl⟩
      · cases h
    · cases h
  · rintro ⟨a, b, c, rfl, rfl⟩
    simp [assembleThree, hfit1.mpr rfl, hfit2.mpr rfl, hfit3.mpr rfl]

/-- One operand is a function code that needs no count; two are a function code and a count. -/
theorem assembleDecResp_eq_some :
    assembleDecResp l = some i ↔
      (l = [0x06] ∧ i = .decResp 0x06#8 0#16) ∨ (l = [0x10] ∧ i = .decResp 0x10#8 0#16) ∨
        ∃ fe cnt, l = [(fe.toNat : Int), (cnt.toNat : Int)] ∧ i = .decResp fe cnt := by
  unfold assembleDecResp
  split
  · rename_i function
    by_cases h6 : function = 0x06
    · simp [h6, eq_comm]
    · simp [h6, eq_comm]
  · rename_i hlen
    replace hlen : ∀ x, l ≠ [x] := hlen
    rw [assembleTwo_eq_some fitUnsigned_eq_some fitUnsigned_eq_some]
    simp [hlen]

/-! ### Every command -/

theorem assemble_operandsOf (i : Instr) : assemble i.opcode (operandsOf i) = some i := by
  cases i with
  | crcInit | crcCheck | rxClear | calLoad | calClear | clamp | clampRatio => rfl
  | crcByte a | rxPush a | packUniform a | unpack a | unpackDw a =>
    exact (assembleOne_eq_some fitUnsigned_eq_some).mpr ⟨a, rfl, rfl⟩
  | dwWrite a b | addrLinear a b | addrForce a b | packAxis a b | ratioSet a b =>
    exact (assembleTwo_eq_some fitUnsigned_eq_some fitUnsigned_eq_some).mpr ⟨a, b, rfl, rfl⟩
  | posSet a b => exact (assembleTwo_eq_some fitUnsigned_eq_some fitPosition_eq_some).mpr ⟨a, b, rfl, rfl⟩
  | encRead a b c | encWrite1 a b c | encWriteN a b c =>
    exact (assembleThree_eq_some fitUnsigned_eq_some fitUnsigned_eq_some fitUnsigned_eq_some).mpr ⟨a, b, c, rfl, rfl⟩
  | decResp a b => exact assembleDecResp_eq_some.mpr (.inr (.inr ⟨a, b, rfl, rfl⟩))

/-- What the assembler answers is a command of the mnemonic, and the operand list is the command's own. -/
theorem operands_of_assemble {op : Opcode} (h : assemble op l = some i) :
    i.opcode = op ∧ (l = operandsOf i ∨ (op = .decResp ∧ (l = [0x06] ∨ l = [0x10]) ∧ l ++ [0] = operandsOf i)) := by
  cases op with
  | crcInit | crcCheck | rxClear | calLoad | calClear | clamp | clampRatio =>
    obtain ⟨rfl, rfl⟩ := assembleNone_eq_some.mp h
    exact ⟨rfl, .inl rfl⟩
  | crcByte | rxPush | packUniform | unpack | unpackDw =>
    obtain ⟨a, rfl, rfl⟩ := (assembleOne_eq_some fitUnsigned_eq_some).mp h
    exact ⟨rfl, .inl rfl⟩
  | dwWrite | addrLinear | addrForce | packAxis | ratioSet =>
    obtain ⟨a, b, rfl, rfl⟩ := (assembleTwo_eq_some fitUnsigned_eq_some fitUnsigned_eq_some).mp h
    exact ⟨rfl, .inl rfl⟩
  | posSet =>
    obtain ⟨a, b, rfl, rfl⟩ := (assembleTwo_eq_some fitUnsigned_eq_some fitPosition_eq_some).mp h
    exact ⟨rfl, .inl rfl⟩
  | encRead | encWrite1 | encWriteN =>
    obtain ⟨a, b, c, rfl, rfl⟩ :=
      (assembleThree_eq_some fitUnsigned_eq_some fitUnsigned_eq_some fitUnsigned_eq_some).mp h
    exact ⟨rfl, .inl rfl⟩
  | decResp =>
    rcases assembleDecResp_eq_some.mp h with ⟨rfl, rfl⟩ | ⟨rfl, rfl⟩ | ⟨fe, cnt, rfl, rfl⟩
    · exact ⟨rfl, .inr ⟨rfl, .inl rfl, rfl⟩⟩
    · exact ⟨rfl, .inr ⟨rfl, .inr rfl, rfl⟩⟩
    · exact ⟨rfl, .inl rfl⟩

/-- Settles O59: the operand list of each shape of command, read in both directions. -/
theorem assemblerAcceptsEveryCommand : Obligations.AssemblerAcceptsEveryCommand := by
  unfold Obligations.AssemblerAcceptsEveryCommand
  exact ⟨assemble_operandsOf, fun op l i => operands_of_assemble⟩

end Sys2Proof.Machine
end

section
/-! SUPPORT. Commands run one after the other, a frame read back from TXBUF, and the pseudo-command ENC_WRITEN_LIST
(30_encoding.md R60, 43_frame_encode.md R79). -/

namespace Sys2Proof.Machine

open Sys2Proof.Claims

variable {s t : State}

/-! ### Commands one after the other -/

theorem execAll_cons {i : Instr} (h : exec i s = .next t) (rest : List Instr) : execAll (i :: rest) s = execAll rest t := by
  simp only [execAll, h]

theorem execAll_append {first rest : List Instr} (h : execAll first s = .next t) :
    execAll (first ++ rest) s = execAll rest t := by
  induction first generalizing s with
  | nil =>
    cases h
    rfl
  | cons i first ih =>
    rw [List.cons_append]
    cases he : exec i s with
    | next u =>
      rw [execAll_cons he] at h ⊢
      exact ih h
    | fault f => cases f
    | refused r => simp [execAll, he] at h

theorem exec_dwWrite {index : Byte} (h : index.toNat ≤ 124) (value : Half) (s : State) :
    exec (.dwWrite index value) s = .next ({ s with dw := s.dw.write index.toNat value }.setStatus .ok) := by
  simp [exec, execDwWrite, dataIndex?_eq_some.mpr ⟨rfl, h⟩]

theorem exec_encWriteN {unit : Byte} {address count : Half} (hunit : unit ≠ 0#8) (h1 : 1 ≤ count.toNat)
    (h123 : count.toNat ≤ 123) (s : State) :
    exec (.encWriteN unit address count) s =
      .next (s.withFrame (writeBody unit address count (stagedWords s count.toNat))) := by
  refine if_pos ?_
  rw [Bool.and_eq_true, unitOk_iff, countOk_iff]
  exact ⟨hunit, h1, h123⟩

/-- The DW_WRITE commands of a list of values stage it. -/
theorem dwLoadCommands_stage (values : List Half) {i : Nat} (h : i + values.length ≤ 125) (s : State) :
    ∃ commands t, dwLoadCommands i values = some commands ∧ execAll commands s = .next t ∧
      t.dw = s.dw.writeList i values := by
  induction values generalizing i s with
  | nil => exact ⟨[], s, rfl, rfl, rfl⟩
  | cons v vs ih =>
    rw [List.length_cons] at h
    have hi : (BitVec.ofNat 8 i).toNat = i := Nat.mod_eq_of_lt (by omega)
    obtain ⟨commands, t, hcommands, hrun, hdw⟩ :=
      ih (i := i + 1) (by omega) ({ s with dw := s.dw.write i v }.setStatus .ok)
    have hfirst := exec_dwWrite (index := BitVec.ofNat 8 i) (by omega) v s
    rw [hi] at hfirst
    refine ⟨.dwWrite (BitVec.ofNat 8 i) v :: commands, t, ?_, (execAll_cons hfirst _).trans hrun, hdw⟩
    rw [dwLoadCommands, fitUnsigned_ofNat (by omega), hcommands]

/-! ### The frame in TXBUF -/

/-- A frame placed in TXBUF is what the port reads back, whatever lay there before (R17, R76). -/
theorem txRead_setFrame (s : State) (frame : List Byte) (c : Half) :
    txRead (s.setFrame frame c) 0 frame.length = frame := by
  apply List.ext_getElem
  · simp
  · intro j _ hj
    have hread : (s.setFrame frame c).txbuf.read j = some frame[j] := by
      simp [Mem.read_writeList, hj]
    simp [txRead, txByte_of_read hread]

theorem length_frame (body : List Byte) : (body ++ le16 (crc16 body)).length = body.length + 2 := by
  simp [le16]

theorem txRead_withFrame (s : State) (body : List Byte) :
    txRead (s.withFrame body) 0 (body.length + 2) = body ++ le16 (crc16 body) := by
  rw [← length_frame]
  exact txRead_setFrame s _ (crc16 body)

theorem toNat_txlen_withFrame (s : State) {body : List Byte} (h : body.length ≤ 254) :
    (s.withFrame body).txlen.toNat = body.length + 2 := by
  have hlen : (s.withFrame body).txlen = BitVec.ofNat 9 (body.length + 2) := by rw [← length_frame]; rfl
  rw [hlen, BitVec.toNat_ofNat, Nat.mod_eq_of_lt (by omega)]

/-! ### The bytes of a request, in the arithmetic of the statements -/

theorem extractLsb'_high (v : Half) : v.extractLsb' 8 8 = hi v := by
  apply BitVec.eq_of_toNat_eq
  simp [hi, BitVec.extractLsb'_toNat, Nat.shiftRight_eq_div_pow]

theorem extractLsb'_low (v : Half) : v.extractLsb' 0 8 = lo v := by
  apply BitVec.eq_of_toNat_eq
  simp [lo, BitVec.extractLsb'_toNat]

theorem be16_eq : be16 = fun v => [hi v, lo v] := by
  funext v
  rw [be16, extractLsb'_high, extractLsb'_low]

theorem le16_eq (v : Half) : le16 v = [lo v, hi v] := by rw [le16, extractLsb'_high, extractLsb'_low]

/-- The body of a request that writes `n` values, `n` in one byte (R79). -/
theorem writeBody_ofNat (unit : Byte) (address : Half) {n : Nat} (h : n < 256) (values : List Half) :
    writeBody unit address (BitVec.ofNat 16 n) values =
      [unit, 0x10#8, hi address, lo address, 0x00#8, BitVec.ofNat 8 n, BitVec.ofNat 8 (2 * n)] ++
        values.flatMap fun v => [hi v, lo v] := by
  have hn : (BitVec.ofNat 16 n).toNat = n := Nat.mod_eq_of_lt (by omega)
  have hhi : hi (BitVec.ofNat 16 n) = 0x00#8 := by rw [hi, hn, Nat.div_eq_of_lt h]
  have hlo : lo (BitVec.ofNat 16 n) = BitVec.ofNat 8 n := by rw [lo, hn, Nat.mod_eq_of_lt h]
  simp [writeBody, be16_eq, hn, hhi, hlo]

/-! ### ENC_WRITEN_LIST -/

/-- What the pseudo-command expands to stages its values, and then builds the frame of what is staged (R60). -/
theorem execAll_encWriteNList {unit : Byte} {values : List Half} (address : Half) (hunit : unit ≠ 0#8)
    (h1 : 1 ≤ values.length) (h123 : values.length ≤ 123) (s : State) :
    ∃ commands u, expand (.encWriteNList unit address values) = some commands ∧
      execAll commands s = .next (State.withFrame u (writeBody unit address (BitVec.ofNat 16 values.length) values)) ∧
      ∀ j (h : j < values.length), u.dw.read j = some values[j] := by
  obtain ⟨commands, u, hcommands, hrun, hdw⟩ := dwLoadCommands_stage values (i := 0) (by omega) s
  have hread : ∀ j (h : j < values.length), u.dw.read j = some values[j] := fun j h => by
    simp [hdw, Mem.read_writeList, h]
  have hstaged : values = stagedWords u values.length :=
    eq_stagedWords rfl fun j h => (dataWord_of_read (hread j h)).symm
  have hcount : (BitVec.ofNat 16 values.length).toNat = values.length := Nat.mod_eq_of_lt (by omega)
  have hencode := exec_encWriteN (address := address) hunit (h1.trans_eq hcount.symm) (hcount.trans_le h123) u
  rw [hcount, ← hstaged] at hencode
  refine ⟨commands ++ [.encWriteN unit address (BitVec.ofNat 16 values.length)], u, ?_,
    (execAll_append hrun).trans (execAll_cons hencode []), hread⟩
  simp [expand, hcommands, fitUnsigned_ofNat (n := 16) (k := values.length) (by omega)]

/-- Settles O60: the state that the expansion leaves is read register by register, and its frame byte by byte. -/
theorem encWriteNListBuildsFrame : Obligations.EncWriteNListBuildsFrame := by
  unfold Obligations.EncWriteNListBuildsFrame
  intro unit address values s hunit h1 h123
  obtain ⟨commands, u, hcommands, hrun, hread⟩ := execAll_encWriteNList address hunit h1 h123 s
  have hlen := writeBody_length unit address (BitVec.ofNat 16 values.length) values
  refine ⟨commands, _, hcommands, hrun, rfl, ?length, hread, ?frame⟩
  case length =>
    rw [toNat_txlen_withFrame u (by omega), hlen]
    omega
  case frame =>
    rintro body rfl
    rw [← writeBody_ofNat unit address (by omega), ← le16_eq, ← txRead_withFrame u, hlen]
    congr 1
    omega

end Sys2Proof.Machine
end

section
/-! SUPPORT. How the words of one opcode decode (30_encoding.md R55), the checksum as arithmetic on numbers (41_crc.md R63,
R64), what CRC_INIT, CRC_BYTE and CRC_CHECK answer (R65 to R67), a flipped bit of the received checksum (R68), and the
obligations they settle. -/

namespace Sys2Proof.Machine

open Sys2Proof.Claims

variable {s t : State}

/-! ### The words of one opcode (R55) -/

/-- Two opcodes do not share a word: the opcode byte is among the fixed bits of both. -/
theorem opcode_unique {w : CommandWord} {op op' : Opcode} (h : opField w = op.code)
    (hw : w &&& op'.format.mask = op'.matchWord) : op' = op := by
  have hcode : op'.code = op.code := (opField_of_fixedBits hw).symm.trans h
  exact Option.some.inj ((opcodeOfCode?_code op').symm.trans (opcodeOfCode?_eq_some.mpr hcode.symm))

/-- The decoder takes a word of an opcode exactly where the fixed bits of the opcode's format are right. -/
theorem encodedAs_instrOf (op : Opcode) : EncodedAs op.code op.format.mask (instrOf op) := by
  refine fun w hop => ⟨fun hw => decode_eq_command.mpr ⟨op, hw, rfl⟩, fun hw s => ?_⟩
  obtain ⟨why, hd⟩ : ∃ why, decode w = .illegal why := by
    refine decode_eq_illegal.mpr fun op' hw' => hw ?_
    rwa [opcode_unique hop hw'] at hw'
  rw [execWord_of_illegal hd, setStatus_illegalCommand]

/-! ### The checksum on numbers (R63, R64) -/

/-- One iteration on a word is one iteration on its number. -/
theorem toNat_crcShift (c : Half) : (crcShift c).toNat = foldBit c.toNat := by
  have hbit : c.getLsbD 0 = decide (c.toNat % 2 = 1) := by simp [BitVec.getLsbD, Nat.testBit_zero]
  simp only [crcShift, foldBit, hbit, decide_eq_true_eq]
  split <;> simp [Config.crcPoly, Nat.shiftRight_eq_div_pow]

theorem toNat_crcStep (c : Half) (b : Byte) : (crcStep c b).toNat = foldByte c.toNat b.toNat := by
  have hxor : (c ^^^ b.setWidth 16).toNat = c.toNat ^^^ b.toNat := by
    rw [BitVec.toNat_xor, BitVec.toNat_setWidth_of_le (by decide)]
  simp only [crcStep, crcShifts, toNat_crcShift, hxor, foldByte]

/-- Settles O15: the step iteration by iteration, the checksum by its fold over one more byte. -/
theorem checksumFollowsAlgorithm : Obligations.ChecksumFollowsAlgorithm := by
  unfold Obligations.ChecksumFollowsAlgorithm
  exact ⟨toNat_crcStep, crc16_nil, crc16_append_one⟩

/-! ### The streaming accumulator (R65, R66) -/

theorem exec_crcInit (s : State) : exec .crcInit s = .next ({ s with crc := 0xFFFF#16 }.setStatus .ok) := rfl

theorem exec_crcByte (b : Byte) (s : State) :
    exec (.crcByte b) s = .next ({ s with crc := crcStep s.crc b }.setStatus .ok) := rfl

/-- Settles O16: CRC_INIT has one form, and one outcome. -/
theorem crcInitResetsAccumulator : Obligations.CrcInitResetsAccumulator := by
  unfold Obligations.CrcInitResetsAccumulator
  exact ⟨encodedAs_instrOf .crcInit, exec_crcInit⟩

/-- Bytes fed one at a time fold into whatever CRC holds; STATUS is OK before them, so it is OK after none of them too. -/
theorem execAll_crcByte (l : List Byte) (s : State) :
    execAll (l.map .crcByte) (s.setStatus .ok) = .next ({ s with crc := l.foldl crcStep s.crc }.setStatus .ok) := by
  induction l generalizing s with
  | nil => rfl
  | cons b l ih =>
    rw [List.map_cons, execAll_cons (exec_crcByte b _)]
    exact ih { s with crc := crcStep s.crc b }

theorem execAll_crcInit_crcByte (l : List Byte) (s : State) :
    execAll (.crcInit :: l.map .crcByte) s = .next ({ s with crc := crc16 l }.setStatus .ok) := by
  rw [execAll_cons (exec_crcInit s)]
  exact execAll_crcByte l { s with crc := 0xFFFF#16 }

/-- Settles O17: one byte by its step, a sequence by its fold from 0xFFFF, the rule's three values by evaluation. -/
theorem crcByteFoldsOneByte : Obligations.CrcByteFoldsOneByte := by
  unfold Obligations.CrcByteFoldsOneByte
  exact ⟨encodedAs_instrOf .crcByte, fun b s => ⟨_, exec_crcByte b s, toNat_crcStep s.crc b, rfl⟩,
    fun l s => ⟨_, execAll_crcInit_crcByte l s, rfl⟩, by decide⟩

/-! ### The validator (R67) -/

/-- The statements' own spelling of the received checksum. -/
theorem receivedCrc_eq_recvCrc (s : State) : receivedCrc s = recvCrc s := rfl

theorem exec_crcCheck_of_short (h : s.rxlen.toNat < 5) : exec .crcCheck s = .next (s.setStatus .incompleteFrame) :=
  if_pos h

theorem exec_crcCheck_of_mismatch (h5 : 5 ≤ s.rxlen.toNat) (h : calcCrc s ≠ recvCrc s) :
    exec .crcCheck s = .next ((s.setLastCrc (calcCrc s)).setStatus .checksumMismatch) :=
  (if_neg (not_lt.mpr h5)).trans (if_pos h)

theorem exec_crcCheck_of_frameGood (h : FrameGood s) :
    exec .crcCheck s = .next ((s.setLastCrc (calcCrc s)).setStatus .ok) :=
  (if_neg (not_lt.mpr h.1)).trans (if_neg (not_not.mpr h.2))

/-- Settles O18: the three outcomes, one by one. -/
theorem crcCheckValidatesFrame : Obligations.CrcCheckValidatesFrame := by
  unfold Obligations.CrcCheckValidatesFrame
  exact ⟨encodedAs_instrOf .crcCheck, fun s =>
    ⟨exec_crcCheck_of_short, exec_crcCheck_of_mismatch, fun h5 h => exec_crcCheck_of_frameGood ⟨h5, h⟩⟩⟩

theorem statusCode_eq_ok {c : Status} : statusCode c = 0x00#8 ↔ c = .ok := by
  cases c <;> decide

/-- CRC_CHECK ends with OK on good frames only. -/
theorem frameGood_of_exec_crcCheck (he : exec .crcCheck s = .next t) (hok : t.status = 0x00#8) : FrameGood s := by
  rcases execCrcCheck_next he with ⟨-, rfl⟩ | ⟨-, -, rfl⟩ | ⟨h5, hcrc, -⟩
  · simp [statusCode_eq_ok] at hok
  · simp [statusCode_eq_ok] at hok
  · exact ⟨h5, hcrc⟩

/-- DEC_RESP after a checksum that is wrong (R85, R90). -/
theorem exec_decResp_of_mismatch {fe : Byte} {cnt : Half} (hop : ExpectOk fe cnt) (h5 : 5 ≤ s.rxlen.toNat)
    (h : calcCrc s ≠ recvCrc s) :
    exec (.decResp fe cnt) s = .next (((s.setLastCrc (calcCrc s)).setKind .none 0).setStatus .checksumMismatch) :=
  (if_pos (expectationOk_iff.mpr hop)).trans ((if_neg (not_lt.mpr h5)).trans (if_pos h))

/-! ### A flipped bit of the received checksum (R68) -/

/-- A half-word of two bytes, as a number (R37). -/
theorem toNat_half (a b : Byte) : (half a b).toNat = a.toNat * 256 + b.toNat := by
  have ha := a.isLt
  have hshift : (a.setWidth 16 <<< 8).toNat = a.toNat <<< 8 := by
    simp only [BitVec.toNat_shiftLeft, BitVec.toNat_setWidth, Nat.shiftLeft_eq]
    omega
  rw [half, BitVec.toNat_or, hshift, BitVec.toNat_setWidth_of_le (by decide), Nat.or_comm,
    ← Nat.shiftLeft_add_eq_or_of_lt b.isLt, Nat.shiftLeft_eq]

theorem half_inj {a b c d : Byte} : half a b = half c d ↔ a = c ∧ b = d := by
  have := b.isLt
  have := d.isLt
  simp only [← BitVec.toNat_inj, toNat_half]
  omega

theorem rxByte_write (s : State) (i j : Nat) (b : Byte) :
    rxByte { s with rxbuf := s.rxbuf.write i b } j = if j = i then b else rxByte s j := by
  simp only [rxByte, Mem.read_write]
  split <;> rfl

/-- The computed checksum does not cover the last two bytes (R69). -/
theorem calcCrc_write {i : Nat} (hi : s.rxlen.toNat - 2 ≤ i) (b : Byte) :
    calcCrc { s with rxbuf := s.rxbuf.write i b } = calcCrc s := by
  refine congrArg crc16 (List.map_congr_left fun j hj => ?_)
  have hj : j < s.rxlen.toNat - 2 := List.mem_range.mp hj
  exact (rxByte_write s i (0 + j) b).trans (if_neg (by omega))

/-- The received checksum is no longer the same when one of the last two bytes is not. -/
theorem recvCrc_write_ne {i : Nat} (hi : i = s.rxlen.toNat - 2 ∨ i = s.rxlen.toNat - 1) {b : Byte}
    (hb : b ≠ rxByte s i) : recvCrc { s with rxbuf := s.rxbuf.write i b } ≠ recvCrc s := by
  simp only [← receivedCrc_eq_recvCrc, receivedCrc, rxByte_write, ne_eq, half_inj, not_and_or]
  rcases hi with rfl | rfl
  · exact .inr (by rwa [if_pos rfl])
  · exact .inl (by rwa [if_pos rfl])

theorem xor_bit_ne {bit : Nat} (h : bit < 8) (b : Byte) : b ^^^ (1#8 <<< bit) ≠ b := by
  intro heq
  have hbit := congrArg (fun x => x.getLsbD bit) heq
  simp [h] at hbit

/-- A good frame with another byte in place of one of its last two has a wrong checksum (R68). -/
theorem write_mismatch_of_frameGood {i : Nat} (h : FrameGood s) (hi : i = s.rxlen.toNat - 2 ∨ i = s.rxlen.toNat - 1)
    {b : Byte} (hb : b ≠ rxByte s i) :
    calcCrc { s with rxbuf := s.rxbuf.write i b } ≠ recvCrc { s with rxbuf := s.rxbuf.write i b } := by
  obtain ⟨-, hcrc⟩ := h
  rw [calcCrc_write (by omega), hcrc]
  exact (recvCrc_write_ne hi hb).symm

/-- Settles O19: the flip changes the checksum received and not the one computed, so both commands find the two differ. -/
theorem flippedChecksumBitIsCaught : Obligations.FlippedChecksumBitIsCaught := by
  unfold Obligations.FlippedChecksumBitIsCaught
  rintro s i bit fe cnt hpass h5 hi hbit hop u rfl
  have hmismatch := write_mismatch_of_frameGood (frameGood_of_exec_crcCheck hpass rfl) hi (xor_bit_ne hbit (rxByte s i))
  have hcalc := calcCrc_write (s := s) (i := i) (by omega) (rxByte s i ^^^ (1#8 <<< bit))
  rw [← hcalc]
  exact ⟨exec_crcCheck_of_mismatch h5 hmismatch, exec_decResp_of_mismatch hop h5 hmismatch⟩

end Sys2Proof.Machine
end

section
/-! SUPPORT. What RX_CLEAR, RX_PUSH and DW_WRITE answer (42_buffers.md R71 to R73), one equation per outcome, and the
obligations they settle. -/

namespace Sys2Proof.Machine

open Sys2Proof.Claims

variable {s : State}

/-! ### The receive buffer (R71, R72) -/

theorem exec_rxClear (s : State) : exec .rxClear s = .next ({ s with rxlen := 0#9 }.setStatus .ok) := rfl

/-- Settles O21: RX_CLEAR has one form, and one outcome. -/
theorem rxClearEmptiesBuffer : Obligations.RxClearEmptiesBuffer := by
  unfold Obligations.RxClearEmptiesBuffer
  exact ⟨encodedAs_instrOf .rxClear, exec_rxClear⟩

theorem exec_rxPush_of_full (h : s.rxlen.toNat = 256) (b : Byte) :
    exec (.rxPush b) s = .next (s.setStatus .rxOverflow) :=
  if_pos (BitVec.eq_of_toNat_eq h)

theorem exec_rxPush_of_ne_full (h : s.rxlen.toNat ≠ 256) (b : Byte) :
    exec (.rxPush b) s =
      .next ({ s with rxbuf := s.rxbuf.write s.rxlen.toNat b, rxlen := s.rxlen + 1#9 }.setStatus .ok) :=
  if_neg fun e => h (congrArg BitVec.toNat e)

/-- The nine bits of RXLEN hold the length after a push below 256. -/
theorem toNat_rxlen_add_one (h : s.rxlen.toNat < 256) : (s.rxlen + 1#9).toNat = s.rxlen.toNat + 1 := by
  bv_omega

/-- Settles O22: the full buffer, and below 256 the byte written at RXLEN, read back there and nowhere else. -/
theorem rxPushAppendsByte : Obligations.RxPushAppendsByte := by
  unfold Obligations.RxPushAppendsByte
  refine ⟨encodedAs_instrOf .rxPush, fun b s => ⟨fun hfull => exec_rxPush_of_full hfull b, fun hroom => ?_⟩⟩
  exact ⟨_, exec_rxPush_of_ne_full hroom.ne b, toNat_rxlen_add_one hroom, Mem.read_write_same _ _ b,
    fun _ hj => Mem.read_write_other _ b hj, rfl⟩

/-! ### The data words (R73) -/

/-- DW_WRITE of a word that is not there; `exec_dwWrite` is the other outcome. -/
theorem exec_dwWrite_of_index_bad {index : Byte} (h : 124 < index.toNat) (value : Half) (s : State) :
    exec (.dwWrite index value) s = .next (s.setStatus .invalidArgument) := by
  simp only [exec, execDwWrite, dataIndex?_eq_none.mpr h, raise]

/-- Settles O23: the index out of range, and in range the word written at the index, read back there and nowhere else. -/
theorem dwWriteStoresWord : Obligations.DwWriteStoresWord := by
  unfold Obligations.DwWriteStoresWord
  refine ⟨encodedAs_instrOf .dwWrite, fun index value s =>
    ⟨fun hbad => exec_dwWrite_of_index_bad hbad value s, fun hok => ?_⟩⟩
  exact ⟨_, exec_dwWrite hok value s, Mem.read_write_same _ _ value, fun _ hj => Mem.read_write_other _ value hj, rfl⟩

end Sys2Proof.Machine
end

section
/-! SUPPORT. The frame encoder (43_frame_encode.md R76 to R81): a built frame read back from TXBUF, what ENC_READ,
ENC_WRITE1 and ENC_WRITEN answer, the validity of the frame that TXBUF holds, and the obligations they settle. -/

namespace Sys2Proof.Machine

open Sys2Proof.Claims

variable {s t : State} {i : Instr}

/-! ### A built frame, byte by byte (R76) -/

/-- What TXBUF holds after a frame has been built: the frame from index 0, and above it what lay there (R17). -/
theorem read_txbuf_withFrame (s : State) (body : List Byte) (j : Nat) :
    (s.withFrame body).txbuf.read j =
      if j < body.length + 2 then (body ++ [lo (crc16 body), hi (crc16 body)])[j]? else s.txbuf.read j := by
  simp [State.withFrame, Mem.read_writeList, le16_eq]

/-- A command that answers `State.withFrame` builds the frame as the statements say it. -/
theorem buildsFrame_of_exec {body : List Byte} (hlen : body.length ≤ 254) (he : exec i s = .next (s.withFrame body)) :
    BuildsFrame i s body := by
  refine ⟨_, he, rfl, toNat_txlen_withFrame s hlen, fun j hj => ?body, ?low, ?high, fun j hj => ?above⟩
  case body => rw [read_txbuf_withFrame, if_pos (by omega), List.getElem?_append_left hj, List.getElem?_eq_getElem hj]
  case low => simp [read_txbuf_withFrame]
  case high => simp [read_txbuf_withFrame]
  case above => rw [read_txbuf_withFrame, if_neg (by omega)]

/-! ### The bodies, in the arithmetic of the statements -/

theorem shortBody_eq (unit fc : Byte) (address field : Half) :
    shortBody unit fc address field = [unit, fc, hi address, lo address, hi field, lo field] := by
  simp [shortBody, be16_eq]

theorem writeBody_eq (unit : Byte) (address count : Half) (values : List Half) :
    writeBody unit address count values =
      [unit, 0x10#8, hi address, lo address, hi count, lo count, BitVec.ofNat 8 (2 * count.toNat)] ++
        values.flatMap fun v => [hi v, lo v] := by
  simp [writeBody, be16_eq]

/-- The statements' own spelling of a data word (R33). -/
theorem dwWord_eq_dataWord (s : State) (j : Nat) : dwWord s j = dataWord s j := by
  unfold dwWord dataWord
  cases s.dw.read j <;> rfl

/-! ### The encoder commands (R77 to R79) -/

theorem exec_encRead {unit : Byte} {address count : Half} (hunit : unit ≠ 0#8) (h1 : 1 ≤ count.toNat)
    (h125 : count.toNat ≤ 125) (s : State) :
    exec (.encRead unit address count) s = .next (s.withFrame (shortBody unit 0x03#8 address count)) := by
  refine if_pos ?_
  rw [Bool.and_eq_true, unitOk_iff, countOk_iff]
  exact ⟨hunit, h1, h125⟩

theorem exec_encWrite1 {unit : Byte} {address value : Half} (hunit : unit ≠ 0#8) (s : State) :
    exec (.encWrite1 unit address value) s = .next (s.withFrame (shortBody unit 0x06#8 address value)) :=
  if_pos (unitOk_iff.mpr hunit)

/-- The statements' own spelling of the state that INVALID_ARGUMENT leaves (R57). -/
theorem exec_of_operand_bad (h : ¬ i.wellFormed = true) (s : State) : exec i s = .next { s with status := 0x02#8 } :=
  exec_of_not_wellFormed (Bool.eq_false_iff.mpr h) s

/-- Settles O25: the two operand ranges, and in range the six bytes of the body. -/
theorem encReadBuildsRequest : Obligations.EncReadBuildsRequest := by
  unfold Obligations.EncReadBuildsRequest
  refine ⟨encodedAs_instrOf .encRead, fun unit address count s => ⟨fun hbad => ?refused, fun hunit h1 h125 => ?built⟩⟩
  case refused =>
    refine exec_of_operand_bad (fun hwf => ?_) s
    obtain ⟨hunit, hcount⟩ := wellFormed_encRead.mp hwf
    exact hbad.elim hunit (by omega)
  case built =>
    rw [← shortBody_eq]
    exact buildsFrame_of_exec (by rw [shortBody_length]; decide) (exec_encRead hunit h1 h125 s)

/-- Settles O26: the unit's range, and in range the six bytes of the body. -/
theorem encWrite1BuildsRequest : Obligations.EncWrite1BuildsRequest := by
  unfold Obligations.EncWrite1BuildsRequest
  refine ⟨encodedAs_instrOf .encWrite1, fun unit address value s => ⟨fun hbad => ?refused, fun hunit => ?built⟩⟩
  case refused => exact exec_of_operand_bad (fun hwf => wellFormed_encWrite1.mp hwf hbad) s
  case built =>
    rw [← shortBody_eq]
    exact buildsFrame_of_exec (by rw [shortBody_length]; decide) (exec_encWrite1 hunit s)

/-- Settles O27: the two operand ranges, and in range the seven bytes of the body's head and the words as they are staged. -/
theorem encWriteNBuildsRequest : Obligations.EncWriteNBuildsRequest := by
  unfold Obligations.EncWriteNBuildsRequest
  refine ⟨encodedAs_instrOf .encWriteN, fun unit address count s =>
    ⟨fun hbad => ?refused, fun hunit h1 h123 values hlen hvalues => ?built⟩⟩
  case refused =>
    refine exec_of_operand_bad (fun hwf => ?_) s
    obtain ⟨hunit, hcount⟩ := wellFormed_encWriteN.mp hwf
    exact hbad.elim hunit (by omega)
  case built =>
    have hstaged : values = stagedWords s count.toNat :=
      eq_stagedWords hlen fun j hj => (hvalues j hj).trans (dwWord_eq_dataWord s j)
    rw [← writeBody_eq, hstaged]
    exact buildsFrame_of_exec (by rw [writeBody_length, stagedWords_length]; omega) (exec_encWriteN hunit h1 h123 s)

/-! ### A valid frame in TXBUF (R69, R80, R81) -/

theorem txRead_append (s : State) (i m n : Nat) : txRead s i (m + n) = txRead s i m ++ txRead s (i + m) n := by
  simp [txRead, List.range_add, Nat.add_assoc]

/-- The length that a function code of a request gives the whole frame (R80, R81). -/
def RequestLength (fc : Byte) (length : Nat) : Prop :=
  (fc = 0x03#8 ∧ length = 8) ∨ (fc = 0x06#8 ∧ length = 8) ∨ (fc = 0x10#8 ∧ ∃ n, 1 ≤ n ∧ n ≤ 123 ∧ length = 9 + 2 * n)

/-- Every request has its head and its checksum, and none fills TXBUF (R80). -/
theorem RequestLength.bounds {fc : Byte} {length : Nat} (h : RequestLength fc length) : 8 ≤ length ∧ length ≤ 255 := by
  rcases h with ⟨-, h⟩ | ⟨-, h⟩ | ⟨-, n, -, h123, h⟩ <;> omega

theorem txFrameValid_iff :
    s.TxFrameValid ↔ s.txlen = 0#9 ∨
      (txByte s 0 ≠ 0#8 ∧ RequestLength (txByte s 1) s.txlen.toNat ∧
        txRead s (s.txlen.toNat - 2) 2 = le16 (crc16 (txRead s 0 (s.txlen.toNat - 2)))) := by
  simp [State.TxFrameValid, RequestLength, ← BitVec.toNat_inj]

/-- Validity sees TXLEN and the 256 bytes of TXBUF only. -/
theorem State.TxFrameValid.congr (h : s.TxFrameValid) (hlen : t.txlen = s.txlen)
    (hbyte : ∀ j, j < 256 → txByte t j = txByte s j) : t.TxFrameValid := by
  have hread : ∀ i n, i + n ≤ 256 → txRead t i n = txRead s i n := fun i n hin =>
    List.map_congr_left fun j hj => hbyte _ (by have := List.mem_range.mp hj; omega)
  rw [txFrameValid_iff] at h ⊢
  rw [hlen]
  refine h.imp_right fun ⟨hunit, hrequest, hcrc⟩ => ?_
  have hbounds := hrequest.bounds
  rw [hbyte 0 (by decide), hbyte 1 (by decide), hread _ _ (by omega), hread _ _ (by omega)]
  exact ⟨hunit, hrequest, hcrc⟩

theorem State.TxFrameValid.setStatus (h : s.TxFrameValid) (c : Status) : (s.setStatus c).TxFrameValid :=
  h.congr rfl fun _ _ => rfl

/-- A body with a unit that is not 0 and the length of its function code is built into a valid frame. -/
theorem txFrameValid_withFrame (s : State) {body : List Byte} {unit fc : Byte} (h0 : body[0]? = some unit)
    (h1 : body[1]? = some fc) (hunit : unit ≠ 0#8) (hrequest : RequestLength fc (body.length + 2)) :
    (s.withFrame body).TxFrameValid := by
  have hbounds := hrequest.bounds
  have hbyte : ∀ j b, j < body.length → body[j]? = some b → txByte (s.withFrame body) j = b := fun j b hj hb =>
    txByte_of_read (by rw [read_txbuf_withFrame, if_pos (by omega), List.getElem?_append_left hj, hb])
  have hread := txRead_withFrame s body
  rw [txRead_append, Nat.zero_add] at hread
  obtain ⟨hbody, hcrc⟩ := List.append_inj hread (txRead_length ..)
  rw [txFrameValid_iff, hbyte 0 unit (by omega) h0, hbyte 1 fc (by omega) h1, toNat_txlen_withFrame s (by omega),
    Nat.add_sub_cancel, hbody]
  exact .inr ⟨hunit, hrequest, hcrc⟩

/-! ### Who writes the frame (R41) -/

section

variable (he : exec i s = .next t) (h1 : i.opcode ≠ .encRead) (h2 : i.opcode ≠ .encWrite1) (h3 : i.opcode ≠ .encWriteN)
include he h1 h2 h3

/-- TXLEN has three writers. -/
theorem exec_keeps_txlen : t.txlen = s.txlen := by
  refine (Keeps.exec he).txlen.resolve_left fun hw => ?_
  cases i with
  | encRead unit address count => exact h1 rfl
  | encWrite1 unit address value => exact h2 rfl
  | encWriteN unit address count => exact h3 rfl
  | _ =>
    simp only [Writes] at hw
    omega

/-- The bytes of TXBUF have the same three. A DEC_RESP in range writes no word of DW above 124, and one out of range writes
STATUS only. -/
theorem exec_keeps_txByte {j : Nat} (hj : j < 256) : txByte t j = txByte s j := by
  cases hwf : i.wellFormed with
  | false =>
    rw [exec_of_not_wellFormed hwf] at he
    cases he
    rfl
  | true =>
    have hkeeps := Keeps.exec he
    have hread : t.txbuf.read j = s.txbuf.read j := by
      refine (hkeeps.txbuf j).resolve_left fun hw => ?_
      cases i with
      | encRead unit address count => exact h1 rfl
      | encWrite1 unit address value => exact h2 rfl
      | encWriteN unit address count => exact h3 rfl
      | decResp fe cnt =>
        rcases hw with hw | hw | ⟨rfl, -, hw⟩
        · omega
        · omega
        · have hok := expectationOk_iff.mp (wellFormed_decResp.symm.trans hwf)
          obtain ⟨-, -, h125⟩ := hok.resolve_right (by decide)
          omega
      | _ =>
        simp only [Writes] at hw
        omega
    simp only [txByte, hread, hkeeps.resets]

end

/-- Every command keeps the frame valid: the encoders build a request or raise, the others do not write it. -/
theorem State.TxFrameValid.exec (h : s.TxFrameValid) (he : exec i s = .next t) : t.TxFrameValid := by
  cases i with
  | encRead unit address count =>
    rcases execEncRead_next he with ⟨-, rfl⟩ | ⟨hunit, -, -, rfl⟩
    · exact h.setStatus _
    · exact txFrameValid_withFrame s rfl rfl hunit (.inl ⟨rfl, rfl⟩)
  | encWrite1 unit address value =>
    rcases execEncWrite1_next he with ⟨-, rfl⟩ | ⟨hunit, rfl⟩
    · exact h.setStatus _
    · exact txFrameValid_withFrame s rfl rfl hunit (.inr (.inl ⟨rfl, rfl⟩))
  | encWriteN unit address count =>
    rcases execEncWriteN_next he with ⟨-, rfl⟩ | ⟨hunit, h1, h123, rfl⟩
    · exact h.setStatus _
    · refine txFrameValid_withFrame s rfl rfl hunit (.inr (.inr ⟨rfl, count.toNat, h1, h123, ?_⟩))
      rw [writeBody_length, stagedWords_length]
      omega
  | _ => exact h.congr (exec_keeps_txlen he nofun nofun nofun) fun _ => exec_keeps_txByte he nofun nofun nofun

/-- Settles O28: an idle step, a command and an ILLEGAL word each keep the frame, and a reset leaves none. -/
theorem stepKeepsTransmitFrameValid : Obligations.StepKeepsTransmitFrameValid := by
  unfold Obligations.StepKeepsTransmitFrameValid
  intro s t h hstep
  have htaken : ∀ rest, (s.takeCommand rest).TxFrameValid := fun rest => h.congr rfl fun _ _ => rfl
  rcases step_next hstep with ⟨-, rfl⟩ | ⟨w, rest, i, -, -, he⟩ | ⟨w, rest, why, -, -, rfl⟩ | ⟨rest, -, rfl⟩
  · exact h
  · exact (htaken rest).exec he
  · exact (htaken rest).setStatus _
  · exact .inl rfl

end Sys2Proof.Machine
end

section
/-! SUPPORT. A response loaded byte by byte, its checksum and its values as DEC_RESP finds them, and the ReadRegisters exchange
(43_frame_encode.md R82, 44_frame_decode.md R89). -/

namespace Sys2Proof.Machine

open Sys2Proof.Claims

variable {s : State}

/-! ### A frame received byte by byte (R71, R72) -/

theorem rxRead_append (s : State) (i m n : Nat) : rxRead s i (m + n) = rxRead s i m ++ rxRead s (i + m) n := by
  simp [rxRead, List.range_add, Nat.add_assoc]

/-- The bytes of RXBUF below RXLEN. -/
def receivedFrame (s : State) : List Byte := rxRead s 0 s.rxlen.toNat

theorem receivedFrame_length (s : State) : (receivedFrame s).length = s.rxlen.toNat := rxRead_length ..

theorem rxByte_of_receivedFrame {j : Nat} {b : Byte} (h : (receivedFrame s)[j]? = some b) : rxByte s j = b := by
  obtain ⟨hj, rfl⟩ := List.getElem?_eq_some_iff.mp h
  simp [receivedFrame, rxRead]

/-- RX_PUSH appends to the frame (R72). -/
theorem receivedFrame_push (h : s.rxlen.toNat < 256) (b : Byte) :
    receivedFrame ({ s with rxbuf := s.rxbuf.write s.rxlen.toNat b, rxlen := s.rxlen + 1#9 }.setStatus .ok) =
      receivedFrame s ++ [b] := by
  rw [receivedFrame, setStatus_rxlen, toNat_rxlen_add_one h, rxRead_append, Nat.zero_add]
  refine congrArg₂ List.append (List.map_congr_left fun j hj => ?old) (congrArg (fun x => [x]) ?new)
  case old =>
    have hj := List.mem_range.mp hj
    exact (rxByte_write s _ (0 + j) b).trans (if_neg (by omega))
  case new => exact (rxByte_write s _ (s.rxlen.toNat + 0) b).trans (if_pos rfl)

theorem execAll_rxPush (l : List Byte) (s : State) (h : s.rxlen.toNat + l.length ≤ 256) :
    ∃ t, execAll (l.map .rxPush) s = .next t ∧ receivedFrame t = receivedFrame s ++ l := by
  induction l generalizing s with
  | nil => exact ⟨s, rfl, (List.append_nil _).symm⟩
  | cons b l ih =>
    rw [List.length_cons] at h
    have hpush := receivedFrame_push (s := s) (by omega) b
    obtain ⟨t, hrun, ht⟩ := ih ({ s with rxbuf := s.rxbuf.write s.rxlen.toNat b, rxlen := s.rxlen + 1#9 }.setStatus .ok) (by
      rw [setStatus_rxlen, toNat_rxlen_add_one (by omega)]
      omega)
    refine ⟨t, (execAll_cons (exec_rxPush_of_ne_full (by omega) b) _).trans hrun, ?_⟩
    rw [ht, hpush, List.append_assoc, List.singleton_append]

/-- RX_CLEAR and the pushes of a frame leave that frame received, whatever lay in RXBUF. -/
theorem execAll_rxClear_rxPush (frame : List Byte) (h : frame.length ≤ 256) (s : State) :
    ∃ t, execAll (.rxClear :: frame.map .rxPush) s = .next t ∧ receivedFrame t = frame := by
  obtain ⟨t, hrun, ht⟩ := execAll_rxPush frame ({ s with rxlen := 0#9 }.setStatus .ok) (by simpa using h)
  exact ⟨t, (execAll_cons (exec_rxClear s) _).trans hrun, ht⟩

/-! ### A frame with its checksum (R36, R69) -/

theorem half_hi_lo (v : Half) : half (hi v) (lo v) = v := by
  have := v.isLt
  apply BitVec.eq_of_toNat_eq
  rw [toNat_half, hi, lo, BitVec.toNat_ofNat, BitVec.toNat_ofNat]
  omega

/-- A frame that ends in the checksum of the bytes before it, low byte first, passes the length and checksum checks. -/
theorem frameGood_of_receivedFrame {body : List Byte} (h3 : 3 ≤ body.length)
    (h : receivedFrame s = body ++ [lo (crc16 body), hi (crc16 body)]) : FrameGood s := by
  have hlen : s.rxlen.toNat = body.length + 2 := by rw [← receivedFrame_length, h]; simp
  have hcalc : calcCrc s = crc16 body := by
    have hread := h
    rw [receivedFrame, hlen, rxRead_append] at hread
    rw [calcCrc, hlen, Nat.add_sub_cancel, List.append_inj_left hread (rxRead_length ..)]
  have hrecv : recvCrc s = crc16 body := by
    rw [← receivedCrc_eq_recvCrc, receivedCrc, hlen, rxByte_of_receivedFrame (b := hi (crc16 body)) (by simp [h]),
      rxByte_of_receivedFrame (b := lo (crc16 body)) (by simp [h]), half_hi_lo]
  exact ⟨by omega, hcalc.trans hrecv.symm⟩

/-! ### The values of a response (R37, R89) -/

theorem getElem?_flatMap_be16 (values : List Half) (i : Nat) :
    (values.flatMap be16)[2 * i]? = values[i]?.map hi ∧ (values.flatMap be16)[2 * i + 1]? = values[i]?.map lo := by
  rw [be16_eq]
  induction values generalizing i with
  | nil => simp
  | cons v values ih =>
    cases i with
    | zero => simp
    | succ i => simpa [Nat.mul_succ] using ih i

/-- The values that DEC_RESP takes from a frame are those after its three bytes of head. -/
theorem responseValue_of_receivedFrame {b0 b1 b2 : Byte} {values : List Half} {tail : List Byte}
    (h : receivedFrame s = b0 :: b1 :: b2 :: (values.flatMap be16 ++ tail)) {i : Nat} (hi : i < values.length) :
    responseValue s i = values[i] := by
  obtain ⟨hhigh, hlow⟩ := getElem?_flatMap_be16 values i
  rw [List.getElem?_eq_getElem hi, Option.map_some] at hhigh hlow
  have hbyte : ∀ j b, (values.flatMap be16)[j]? = some b → rxByte s (j + 3) = b := fun j b hj => by
    refine rxByte_of_receivedFrame ?_
    rw [h]
    exact (List.getElem?_append_left (List.getElem?_eq_some_iff.mp hj).1).trans hj
  rw [responseValue, Nat.add_comm 3, hbyte _ _ hhigh, Nat.add_comm 4, hbyte _ _ hlow, half_hi_lo]

/-! ### DEC_RESP on a ReadRegisters response (R89) -/

/-- DEC_RESP after the operand, length and checksum checks. -/
theorem exec_decResp_of_frameGood {fe : Byte} {cnt : Half} (hop : ExpectOk fe cnt) (hgood : FrameGood s) :
    exec (.decResp fe cnt) s = takeResponse fe cnt s.withHeader := by
  obtain ⟨h5, hcrc⟩ := hgood
  exact (if_pos (expectationOk_iff.mpr hop)).trans ((if_neg (not_lt.mpr h5)).trans (if_neg (not_not.mpr hcrc)))

theorem exec_decResp_of_registers {cnt : Half} (h1 : 1 ≤ cnt.toNat) (h125 : cnt.toNat ≤ 125) (hgood : FrameGood s)
    (hfc : rxByte s 1 = 0x03#8) (hlen : s.rxlen.toNat = 5 + 2 * cnt.toNat) :
    exec (.decResp 0x03#8 cnt) s = .next (s.withHeader.withRegisters cnt.toNat) := by
  have hheader : rxByte s.withHeader 1 = 0x03#8 := hfc
  have hcount : ¬ ((s.withHeader.rxlen.toNat - 5) % 2 ≠ 0 ∨ (s.withHeader.rxlen.toNat - 5) / 2 ≠ cnt.toNat) := by
    rw [State.withHeader, setHeader_rxlen, setLastCrc_rxlen]
    omega
  rw [exec_decResp_of_frameGood (.inl ⟨rfl, h1, h125⟩) hgood, takeResponse, hheader, if_neg (by decide), if_neg (by decide),
    if_neg (by decide)]
  exact if_neg hcount

/-- The data words after a ReadRegisters response: its values from index 0, the others as they were. -/
theorem read_dw_withRegisters (s : State) (count j : Nat) :
    (s.withRegisters count).dw.read j = if j < count then some (responseValue s j) else s.dw.read j := by
  simp only [State.withRegisters, setStatus_dw, setKind_dw, Mem.read_writeList, responseValues_length]
  by_cases hj : j < count <;> simp [hj, responseValues]

/-! ### The exchange (R82) -/

/-- A response with `values` and a matching checksum, whatever its unit and its count byte: the checksum is good, the function
code and the length are those expected, and the values are in place. -/
theorem exec_decResp_of_response {unit countByte : Byte} {cnt : Half} {values : List Half} {body : List Byte}
    (hbody : body = unit :: 0x03#8 :: countByte :: values.flatMap be16)
    (hreceived : receivedFrame s = body ++ [lo (crc16 body), hi (crc16 body)]) (hcnt : cnt.toNat = values.length)
    (h1 : 1 ≤ values.length) (h125 : values.length ≤ 125) :
    ∃ t, exec (.decResp 0x03#8 cnt) s = .next t ∧ t.status = 0x00#8 ∧ t.rkind = 1#8 ∧ t.rcount.toNat = values.length ∧
      ∀ j (h : j < values.length), t.dw.read j = some values[j] := by
  have hlen : body.length = 2 * values.length + 3 := by
    simp only [hbody, List.length_cons, flatMap_be16_length]
  have hrxlen : s.rxlen.toNat = 5 + 2 * cnt.toNat := by
    simp only [← receivedFrame_length, hreceived, List.length_append, List.length_cons, List.length_nil, hlen, hcnt]
    omega
  have hgood : FrameGood s := frameGood_of_receivedFrame (by omega) hreceived
  have hfc : rxByte s 1 = 0x03#8 := rxByte_of_receivedFrame (by rw [hreceived, hbody]; rfl)
  refine ⟨_, exec_decResp_of_registers (by omega) (by omega) hgood hfc hrxlen, rfl, rfl, ?count, fun j hj => ?words⟩
  case count => exact (Nat.mod_eq_of_lt (by omega)).trans hcnt
  case words =>
    have hvalue : responseValue s j = values[j] := responseValue_of_receivedFrame (by rw [hreceived, hbody]; rfl) hj
    rw [read_dw_withRegisters, if_pos (by omega)]
    exact congrArg some hvalue

/-- Settles O36: the request is built, the response is received as it was sent, and its decoder finds every check passed. -/
theorem readRegistersRoundTrip : Obligations.ReadRegistersRoundTrip := by
  unfold Obligations.ReadRegistersRoundTrip
  intro unit countByte address values s hunit h1 h125 body hbody
  rw [← be16_eq] at hbody
  have hcount : (BitVec.ofNat 16 values.length).toNat = values.length := Nat.mod_eq_of_lt (by omega)
  have hlen : (body ++ [lo (crc16 body), hi (crc16 body)]).length ≤ 256 := by
    simp only [hbody, List.length_append, List.length_cons, List.length_nil, flatMap_be16_length]
    omega
  have hrequest := exec_encRead (address := address) hunit (h1.trans_eq hcount.symm) (hcount.trans_le h125) s
  obtain ⟨u, hload, hreceived⟩ := execAll_rxClear_rxPush _ hlen (s.withFrame _)
  obtain ⟨t, hdecode, hresult⟩ := exec_decResp_of_response hbody hreceived hcount h1 h125
  exact ⟨t, (execAll_cons hrequest _).trans ((execAll_append hload).trans (execAll_cons hdecode [])), hresult⟩

end Sys2Proof.Machine
end

section
/-! SUPPORT. What DEC_RESP answers, outcome by outcome (44_frame_decode.md R83 to R91), and the obligations they settle.
`exec_decResp_of_mismatch` and `exec_decResp_of_registers` above are two of the outcomes. -/

namespace Sys2Proof.Machine

open Sys2Proof.Claims

variable {s : State} {fe : Byte} {cnt : Half}

/-! ### The expected function code (R86, R91) -/

/-- The three codes that may be expected. -/
theorem expectedCode_of_expectOk (h : ExpectOk fe cnt) : fe = 0x03#8 ∨ fe = 0x06#8 ∨ fe = 0x10#8 :=
  h.imp_left And.left

/-- Bit 7 is clear in the three codes, so setting it adds 0x80 (R86). -/
theorem exceptionCode_eq (h : ExpectOk fe cnt) : fe ||| 0x80#8 = BitVec.ofNat 8 (fe.toNat + 0x80) := by
  rcases expectedCode_of_expectOk h with rfl | rfl | rfl <;> rfl

/-- A code that may be expected is not its own exception code. -/
theorem expectedCode_ne_exceptionCode (h : ExpectOk fe cnt) : fe ≠ fe ||| 0x80#8 := by
  rcases expectedCode_of_expectOk h with rfl | rfl | rfl <;> decide

/-! ### The checks after the checksum (R86 to R89) -/

theorem takeResponse_of_unexpected (hexception : rxByte s 1 ≠ fe ||| 0x80#8) (hcode : rxByte s 1 ≠ fe) :
    takeResponse fe cnt s = .next ((s.setKind .none 0).setStatus .unexpectedFunctionCode) :=
  (if_neg hexception).trans (if_pos hcode)

theorem takeResponse_of_exception_acknowledged (hcode : rxByte s 1 = fe ||| 0x80#8) (hack : s.noresp = some (rxByte s 2)) :
    takeResponse fe cnt s = .next (((s.setExcCode (rxByte s 2)).setKind .norespAck 0).setStatus .ok) :=
  (if_pos hcode).trans (if_pos hack)

theorem takeResponse_of_exception_raised (hcode : rxByte s 1 = fe ||| 0x80#8) (hack : s.noresp ≠ some (rxByte s 2)) :
    takeResponse fe cnt s = .next (((s.setExcCode (rxByte s 2)).setKind .none 0).setStatus .deviceException) :=
  (if_pos hcode).trans (if_neg hack)

theorem takeResponse_of_write (hfe : fe = 0x06#8 ∨ fe = 0x10#8) (hcode : rxByte s 1 = fe) :
    takeResponse fe cnt s = .next ((s.setKind .writeOk 0).setStatus .ok) := by
  have hexception : rxByte s 1 ≠ fe ||| 0x80#8 := hcode.trans_ne (expectedCode_ne_exceptionCode (cnt := cnt) (.inr hfe))
  exact (if_neg hexception).trans ((if_neg (not_not.mpr hcode)).trans (if_pos hfe))

theorem takeResponse_of_countMismatch (h5 : 5 ≤ s.rxlen.toNat) (hcode : rxByte s 1 = 0x03#8)
    (hlen : s.rxlen.toNat ≠ 5 + 2 * cnt.toNat) :
    takeResponse 0x03#8 cnt s = .next ((s.setKind .none 0).setStatus .countMismatch) := by
  have hcount : (s.rxlen.toNat - 5) % 2 ≠ 0 ∨ (s.rxlen.toNat - 5) / 2 ≠ cnt.toNat := by omega
  rw [takeResponse, hcode, if_neg (by decide), if_neg (by decide), if_neg (by decide)]
  exact if_pos hcount

/-- Only the ReadRegisters response is compared with the count (R91). -/
theorem takeResponse_of_write_count (hfe : fe = 0x06#8 ∨ fe = 0x10#8) (cnt cnt' : Half) (s : State) :
    takeResponse fe cnt s = takeResponse fe cnt' s := by
  simp only [takeResponse, if_pos hfe]

/-! ### The outcomes of the command -/

/-- The length is checked before the checksum (R84). -/
theorem exec_decResp_of_short (hop : ExpectOk fe cnt) (hshort : s.rxlen.toNat < 5) :
    exec (.decResp fe cnt) s = .next ((s.setKind .none 0).setStatus .incompleteFrame) :=
  (if_pos (expectationOk_iff.mpr hop)).trans (if_pos hshort)

theorem exec_decResp_of_write_count (hfe : fe = 0x06#8 ∨ fe = 0x10#8) (cnt cnt' : Half) (s : State) :
    exec (.decResp fe cnt) s = exec (.decResp fe cnt') s := by
  have hop : ∀ c, expectationOk fe c = true := fun _ => expectationOk_iff.mpr (.inr hfe)
  simp only [exec, execDecResp, hop, takeResponse_of_write_count hfe cnt cnt']

/-- As `exec_decResp_of_frameGood`, in the statements' own spelling of what the command has recorded by then. -/
theorem exec_decResp_eq_takeResponse (hop : ExpectOk fe cnt) (hgood : FrameGood s) :
    exec (.decResp fe cnt) s = takeResponse fe cnt (received s) := exec_decResp_of_frameGood hop hgood

/-- Settles O29: the encoding, the operands out of range, and the count that a write response is not compared with. -/
theorem decRespChecksOperands : Obligations.DecRespChecksOperands := by
  unfold Obligations.DecRespChecksOperands
  refine ⟨encodedAs_instrOf .decResp, fun fe cnt s hbad => ?refused,
    fun fe cnt cnt' s hfe => exec_decResp_of_write_count hfe cnt cnt' s⟩
  case refused =>
    exact exec_of_operand_bad (fun hwf => hbad (expectationOk_iff.mp (wellFormed_decResp.symm.trans hwf))) s

/-- Settles O30, by the outcome of a short frame. -/
theorem decRespRejectsShortFrame : Obligations.DecRespRejectsShortFrame := by
  unfold Obligations.DecRespRejectsShortFrame
  exact fun fe cnt s hop hshort => exec_decResp_of_short hop hshort

/-- Settles O31, by the outcome of a wrong checksum. -/
theorem decRespRejectsBadChecksum : Obligations.DecRespRejectsBadChecksum := by
  unfold Obligations.DecRespRejectsBadChecksum
  exact fun fe cnt s hop h5 hmismatch => exec_decResp_of_mismatch hop h5 hmismatch

/-- Settles O32: the two codes that would be taken are the expected one and its exception code. -/
theorem decRespRejectsUnexpectedCode : Obligations.DecRespRejectsUnexpectedCode := by
  unfold Obligations.DecRespRejectsUnexpectedCode
  intro fe cnt s hop hgood hcode hexception
  rw [← exceptionCode_eq hop] at hexception
  rw [exec_decResp_eq_takeResponse hop hgood]
  exact takeResponse_of_unexpected hexception hcode

/-- Settles O33: P_NORESP decides between the two outcomes of an exception response. -/
theorem decRespTakesException : Obligations.DecRespTakesException := by
  unfold Obligations.DecRespTakesException
  intro fe cnt s hop hgood hcode
  rw [← exceptionCode_eq hop] at hcode
  rw [exec_decResp_eq_takeResponse hop hgood]
  exact ⟨takeResponse_of_exception_acknowledged (s := received s) hcode,
    takeResponse_of_exception_raised (s := received s) hcode⟩

/-- Settles O34: the function code alone makes a write response. -/
theorem decRespAcceptsWriteResponse : Obligations.DecRespAcceptsWriteResponse := by
  unfold Obligations.DecRespAcceptsWriteResponse
  intro fe cnt s hfe hgood hcode
  rw [exec_decResp_eq_takeResponse (.inr hfe) hgood]
  exact takeResponse_of_write hfe hcode

/-- A value of a response in the arithmetic of the statements, high byte first (R37). -/
theorem responseValue_eq (s : State) (i : Nat) :
    responseValue s i = BitVec.ofNat 16 ((rxByte s (3 + 2 * i)).toNat * 256 + (rxByte s (4 + 2 * i)).toNat) := by
  rw [← toNat_half, BitVec.ofNat_toNat, BitVec.setWidth_eq, responseValue]

/-- Settles O35: the length decides between COUNT_MISMATCH and the registers, which are then read back word by word. -/
theorem decRespReturnsRegisters : Obligations.DecRespReturnsRegisters := by
  unfold Obligations.DecRespReturnsRegisters
  intro cnt s h1 h125 hgood hcode
  refine ⟨fun hlen => ?mismatch, fun hlen =>
    ⟨_, exec_decResp_of_registers h1 h125 hgood hcode hlen, fun j hj => ?values, fun j hj => ?others, ?count, rfl⟩⟩
  case mismatch =>
    exact (exec_decResp_eq_takeResponse (.inl ⟨rfl, h1, h125⟩) hgood).trans
      (takeResponse_of_countMismatch (s := received s) hgood.1 hcode hlen)
  case values =>
    rw [read_dw_withRegisters, if_pos hj, responseValue_eq]
    rfl
  case others =>
    rw [read_dw_withRegisters, if_neg (not_lt.mpr hj)]
    rfl
  case count => exact Nat.mod_eq_of_lt (by omega)

end Sys2Proof.Machine
end

section
/-! SUPPORT. What ADDR_LINEAR and ADDR_FORCE, PACK_UNIFORM and PACK_AXIS, UNPACK and UNPACK_DW answer (45_regmap_bitpack.md R94
to R102), slots and fields as digits to base 4, and the obligations they settle. -/

namespace Sys2Proof.Machine

open Sys2Proof.Claims

/-! ### Addresses (R97, R98) -/

/-- Both outcomes of a command that generates an address, at the stride of either table. -/
theorem exec_of_generateAddress {s : State} {i : Instr} {base : Half} {axis : Byte} {stride : Nat}
    (hi : exec i s = generateAddress base axis stride s) :
    (axis.toNat < 1 ∨ 6 < axis.toNat ∨ 0xFFFF < base.toNat + (axis.toNat - 1) * stride →
      exec i s = .next { s with status := 0x02#8 }) ∧
    (1 ≤ axis.toNat → axis.toNat ≤ 6 → base.toNat + (axis.toNat - 1) * stride ≤ 0xFFFF →
      ∃ t, exec i s = .next t ∧ t.res.toNat = base.toNat + (axis.toNat - 1) * stride ∧
        t = { s with res := t.res, status := 0x00#8 }) := by
  obtain ⟨t, he⟩ := exec_completes i s
  rcases generateAddress_next (hi.symm.trans he) with ⟨hbad, rfl⟩ | ⟨h1, h6, a, ha, rfl⟩
  · exact ⟨fun _ => he, fun h1 h6 hfits => by omega⟩
  · exact ⟨fun hbad => by omega, fun _ _ _ => ⟨_, he, ha, rfl⟩⟩

/-- Settles O37, at stride 1. -/
theorem addrLinearAddsAxisSlot : Obligations.AddrLinearAddsAxisSlot := by
  unfold Obligations.AddrLinearAddsAxisSlot
  refine ⟨encodedAs_instrOf .addrLinear, fun base axis s => ?_⟩
  have h := exec_of_generateAddress (i := .addrLinear base axis) (s := s) (stride := 1) rfl
  rwa [Nat.mul_one] at h

/-- Settles O38, at stride 16. -/
theorem addrForceAddsSixteenPerSlot : Obligations.AddrForceAddsSixteenPerSlot := by
  unfold Obligations.AddrForceAddsSixteenPerSlot
  exact ⟨encodedAs_instrOf .addrForce, fun base axis s => exec_of_generateAddress rfl⟩

/-! ### Slots as digits to base 4 (R94) -/

/-- The digits of a number with one digit other than 0. -/
theorem mul_pow_div_pow_mod {m : Nat} (hm : m < 4) (j k : Nat) : m * 4 ^ j / 4 ^ k % 4 = if k = j then m else 0 := by
  rcases lt_trichotomy k j with h | rfl | h
  · obtain ⟨d, rfl⟩ := Nat.exists_eq_add_of_lt h
    have hshift : m * 4 ^ (k + d + 1) = 4 ^ k * (4 * (m * 4 ^ d)) := by ring
    rw [if_neg h.ne, hshift, Nat.mul_div_cancel_left _ (by positivity), Nat.mul_mod_right]
  · rw [if_pos rfl, Nat.mul_div_cancel _ (by positivity), Nat.mod_eq_of_lt hm]
  · have hlt : m * 4 ^ j < 4 ^ k :=
      calc m * 4 ^ j < 4 * 4 ^ j := by gcongr
        _ = 4 ^ (j + 1) := (Nat.pow_succ').symm
        _ ≤ 4 ^ k := Nat.pow_le_pow_right (by decide) h
    rw [if_neg h.ne', Nat.div_eq_of_lt hlt]

/-- 0x555 has the digit 1 in each of the six places. -/
theorem mul_repunit_div_pow_mod {m : Nat} (hm : m < 4) (k : Fin 6) : m * 0x555 / 4 ^ k.val % 4 = m := by
  revert k
  interval_cases m <;> decide

/-- The highest slot ends at bit 11, so no bit of the mode is shifted out. -/
theorem toNat_modeInSlot (mode : BitVec 2) (k : Fin 6) : (modeInSlot mode k).toNat = mode.toNat * 4 ^ k.val := by
  have hpow : 4 ^ k.val ≤ 4 ^ 5 := Nat.pow_le_pow_right (by decide) (by omega)
  have hlt : mode.toNat * 4 ^ k.val < 2 ^ 16 :=
    calc mode.toNat * 4 ^ k.val ≤ 3 * 4 ^ 5 := Nat.mul_le_mul (by omega) hpow
      _ < 2 ^ 16 := by decide
  rw [modeInSlot, BitVec.toNat_shiftLeft, BitVec.toNat_setWidth_of_le (by decide), Nat.shiftLeft_eq, Nat.pow_mul]
  exact Nat.mod_eq_of_lt hlt

/-- The four words that PACK_UNIFORM makes (R99). -/
theorem toNat_uniformWord : ∀ mode : BitVec 2, (uniformWord mode).toNat = mode.toNat * 0x555 := by decide

theorem toNat_axisFields (w : Half) (k : Fin 6) : ((axisFields w).get k).toNat = w.toNat / 4 ^ k.val % 4 := by
  rw [axisFields, Axes.get_ofFn, BitVec.extractLsb'_toNat, Nat.shiftRight_eq_div_pow, Nat.pow_mul]

/-! ### The packers undone (R101) -/

theorem axisFields_modeInSlot (mode : BitVec 2) (j k : Fin 6) :
    (axisFields (modeInSlot mode j)).get k = if k.val = j.val then mode else 0#2 := by
  refine BitVec.eq_of_toNat_eq ?_
  rw [toNat_axisFields, toNat_modeInSlot, mul_pow_div_pow_mod mode.isLt, apply_ite BitVec.toNat]
  rfl

theorem axisFields_uniformWord (mode : BitVec 2) (k : Fin 6) : (axisFields (uniformWord mode)).get k = mode := by
  refine BitVec.eq_of_toNat_eq ?_
  rw [toNat_axisFields, toNat_uniformWord, mul_repunit_div_pow_mod mode.isLt]

/-! ### The packers and the unpackers (R99 to R102) -/

theorem exec_packUniform (mode : BitVec 2) (s : State) :
    exec (.packUniform mode) s = .next ({ s with res := uniformWord mode }.setStatus .ok) := rfl

/-- Settles O39: PACK_UNIFORM has one outcome, whose word is known as a number. -/
theorem packUniformFillsSixSlots : Obligations.PackUniformFillsSixSlots := by
  unfold Obligations.PackUniformFillsSixSlots
  exact ⟨encodedAs_instrOf .packUniform, fun mode s => ⟨_, exec_packUniform mode s, toNat_uniformWord mode, rfl⟩⟩

theorem exec_packAxis {axis : Byte} {k : Fin 6} (hk : axis.toNat = k.val + 1) (mode : BitVec 2) (s : State) :
    exec (.packAxis axis mode) s = .next ({ s with res := modeInSlot mode k }.setStatus .ok) := by
  simp only [exec, execPackAxis, axisSlot?_eq_some.mpr hk, done]

/-- Settles O40: the axis out of range, and in range the mode in the axis's slot, as a number. -/
theorem packAxisFillsOneSlot : Obligations.PackAxisFillsOneSlot := by
  unfold Obligations.PackAxisFillsOneSlot
  refine ⟨encodedAs_instrOf .packAxis, fun axis mode s => ⟨fun hbad => ?refused, fun h1 h6 => ?packed⟩⟩
  case refused => exact exec_of_operand_bad (mt wellFormed_packAxis.mp (by omega)) s
  case packed =>
    obtain ⟨k, -, hk⟩ := axisSlot?_of_range h1 h6
    rw [hk, Nat.add_sub_cancel]
    exact ⟨_, exec_packAxis hk mode s, toNat_modeInSlot mode k, rfl⟩

theorem exec_unpack (word : Half) (s : State) :
    exec (.unpack word) s = .next ({ s with axf := axisFields word }.setStatus .ok) := rfl

/-- Settles O41: the fields as digits of the word, and then as what a packer put there. -/
theorem unpackSplitsSixFields : Obligations.UnpackSplitsSixFields := by
  unfold Obligations.UnpackSplitsSixFields
  refine ⟨encodedAs_instrOf .unpack, fun word s => ⟨_, exec_unpack word s, toNat_axisFields word, rfl⟩,
    fun mode s t u hpack hunpack k => ?uniform, fun axis mode s t u h1 h6 hpack hunpack k => ?axis⟩
  case uniform =>
    obtain rfl := execPackUniform_next hpack
    obtain rfl := execUnpack_next hunpack
    exact axisFields_uniformWord mode k
  case axis =>
    obtain rfl := execUnpack_next hunpack
    rcases execPackAxis_next hpack with ⟨hbad, -⟩ | ⟨j, hj, rfl⟩
    · omega
    · rw [hj]
      exact (axisFields_modeInSlot mode j k).trans (if_congr Nat.succ_inj.symm rfl rfl)

theorem exec_unpackDw {index : Byte} (h : index.toNat ≤ 124) (s : State) :
    exec (.unpackDw index) s = .next ({ s with axf := axisFields (dataWord s index.toNat) }.setStatus .ok) := by
  simp only [exec, execUnpackDw, dataIndex?_eq_some.mpr ⟨rfl, h⟩, done]

/-- Settles O42: the index out of range, and in range the fields of the word that is there, written or not. -/
theorem unpackDwSplitsDataWord : Obligations.UnpackDwSplitsDataWord := by
  unfold Obligations.UnpackDwSplitsDataWord
  refine ⟨encodedAs_instrOf .unpackDw, fun index s => ⟨fun hbad => ?refused, fun hok => ?split⟩⟩
  case refused => exact exec_of_operand_bad (mt wellFormed_unpackDw.mp (not_le.mpr hbad)) s
  case split =>
    rw [dwWord_eq_dataWord]
    exact ⟨_, exec_unpackDw hok s, toNat_axisFields (dataWord s index.toNat), rfl⟩

end Sys2Proof.Machine
end

section
/-! SUPPORT. The calibration store and the operands staged for the clamp (46_safety_clamp.md R103 to R106): what CAL_LOAD,
CAL_CLEAR, POS_SET and RATIO_SET answer, and the obligations they settle. -/

namespace Sys2Proof.Machine

open Sys2Proof.Claims

variable {s : State}

/-! ### The calibration store (R103, R104) -/

theorem exec_calLoad_of_six (h : s.rcount = 6#8) : exec .calLoad s = .next s.withCalibration := if_pos h

theorem exec_calLoad_of_ne_six (h : s.rcount ≠ 6#8) : exec .calLoad s = .next (s.setStatus .calibrationReadError) :=
  if_neg h

theorem calmax_withCalibration (s : State) (k : Fin 6) : s.withCalibration.calmax.get k = dwWord s k.val := by
  rw [dwWord_eq_dataWord]
  exact Axes.get_ofFn (fun k => dataWord s k.val) k

/-- Settles O43: the two outcomes, the second with six data words and CALVALID written. -/
theorem calLoadStoresSixMaxima : Obligations.CalLoadStoresSixMaxima := by
  unfold Obligations.CalLoadStoresSixMaxima
  refine ⟨encodedAs_instrOf .calLoad, fun s => ⟨exec_calLoad_of_ne_six, fun hsix => ?_⟩⟩
  exact ⟨_, exec_calLoad_of_six hsix, calmax_withCalibration s, calValid_withCalValid true s.flags,
    uncal_withCalValid true s.flags, rfl⟩

theorem exec_calClear (s : State) : exec .calClear s = .next ((s.setCalValid false).setStatus .ok) := rfl

/-- Settles O44: CAL_CLEAR has one outcome, which writes CALVALID alone of the two flags. -/
theorem calClearDropsCalibration : Obligations.CalClearDropsCalibration := by
  unfold Obligations.CalClearDropsCalibration
  exact ⟨encodedAs_instrOf .calClear, fun s =>
    ⟨_, exec_calClear s, calValid_withCalValid false s.flags, uncal_withCalValid false s.flags, rfl⟩⟩

/-! ### Positions and ratios staged (R105, R106) -/

/-- A register file after one register is written, by the axis identifier of the register. -/
theorem Axes.get_set_axis {α : Type} {axis : Byte} {j : Fin 6} (hj : axis.toNat = j.val + 1) (v : Axes α) (x : α)
    (k : Fin 6) : (v.set j x).get k = if k.val + 1 = axis.toNat then x else v.get k := by
  have hslot : k = j ↔ k.val + 1 = axis.toNat := by omega
  rw [Axes.get_set]
  exact if_congr hslot rfl rfl

theorem exec_posSet {axis : Byte} {k : Fin 6} (hk : axis.toNat = k.val + 1) (position : Full) (s : State) :
    exec (.posSet axis position) s =
      .next ({ s with posIn := s.posIn.set k position, posTag := s.posTag.set k true }.setStatus .ok) := by
  simp only [exec, execPosSet, axisSlot?_eq_some.mpr hk, done]

theorem exec_ratioSet {axis : Byte} {ratio : Half} {k : Fin 6} (hk : axis.toNat = k.val + 1) (hr : ratio.toNat ≤ 0x8000)
    (s : State) :
    exec (.ratioSet axis ratio) s =
      .next ({ s with ratio := s.ratio.set k ratio, ratioTag := s.ratioTag.set k true }.setStatus .ok) := by
  simp only [exec, execRatioSet, axisSlot?_eq_some.mpr hk, ratioOk_iff.mpr hr, if_true, done]

/-- Settles O45: the axis out of range, and in range the word and the tag of the axis written, the other five kept. -/
theorem posSetStagesPosition : Obligations.PosSetStagesPosition := by
  unfold Obligations.PosSetStagesPosition
  refine ⟨encodedAs_instrOf .posSet, fun axis position s => ⟨fun hbad => ?refused, fun h1 h6 => ?staged⟩⟩
  case refused => exact exec_of_operand_bad (mt wellFormed_posSet.mp (by omega)) s
  case staged =>
    obtain ⟨j, -, hj⟩ := axisSlot?_of_range h1 h6
    exact ⟨_, exec_posSet hj position s,
      fun k => ⟨Axes.get_set_axis hj s.posIn position k, Axes.get_set_axis hj s.posTag true k⟩, rfl⟩

/-- Settles O46: the axis or the ratio out of range, and in range the word and the tag of the axis written, the other five
kept. -/
theorem ratioSetStagesRatio : Obligations.RatioSetStagesRatio := by
  unfold Obligations.RatioSetStagesRatio
  refine ⟨encodedAs_instrOf .ratioSet, fun axis ratio s => ⟨fun hbad => ?refused, fun h1 h6 hr => ?staged⟩⟩
  case refused => exact exec_of_operand_bad (mt wellFormed_ratioSet.mp (by omega)) s
  case staged =>
    obtain ⟨j, -, hj⟩ := axisSlot?_of_range h1 h6
    exact ⟨_, exec_ratioSet hj hr s,
      fun k => ⟨Axes.get_set_axis hj s.ratio ratio k, Axes.get_set_axis hj s.ratioTag true k⟩, rfl⟩

end Sys2Proof.Machine
end

section
/-! SUPPORT. The safety clamp (46_safety_clamp.md R107 to R111): the functions clampv and scale, what CLAMP and CLAMP_RATIO
answer, one equation per outcome, and the obligations they settle. -/

namespace Sys2Proof.Machine

open Sys2Proof.Claims

variable {s t : State}

/-! ### clampv and scale (R109, R110) -/

theorem clampv_of_lt_one {p : Int} (hp : p < 1) (h : Int) : clampv p h = 1 := if_pos hp

theorem clampv_of_gt {p h : Int} (hh : 1 ≤ h) (hp : h < p) : clampv p h = h :=
  (if_neg (by omega)).trans (if_pos hp)

theorem clampv_of_mem {p h : Int} (h1 : 1 ≤ p) (hp : p ≤ h) : clampv p h = p :=
  (if_neg (by omega)).trans (if_neg (by omega))

/-- On a nonempty interval, clampv is the statements' own bounding function. -/
theorem clampv_eq_bounded {h : Int} (hh : 1 ≤ h) (p : Int) : clampv p h = bounded p h := by
  unfold bounded
  rcases lt_or_ge p 1 with hp | h1
  · rw [clampv_of_lt_one hp]
    omega
  rcases lt_or_ge h p with hp | hp
  · rw [clampv_of_gt hh hp]
    omega
  · rw [clampv_of_mem h1 hp]
    omega

theorem one_le_clampv {h : Int} (hh : 1 ≤ h) (p : Int) : 1 ≤ clampv p h := by
  rw [clampv_eq_bounded hh]
  exact le_max_left ..

theorem clampv_le {h : Int} (hh : 1 ≤ h) (p : Int) : clampv p h ≤ h := by
  rw [clampv_eq_bounded hh]
  exact max_le hh (min_le_right ..)

theorem scale_le {r : Half} (hr : r.toNat ≤ 0x8000) (m : Half) : scale r m ≤ m.toNat :=
  Nat.div_le_of_le_mul (Nat.mul_le_mul_right _ hr)

/-- Settles O50: the floor by its two inequalities, then the bound and the ends of the legal ratios. -/
theorem scaleTruncates : Obligations.ScaleTruncates := by
  unfold Obligations.ScaleTruncates
  refine fun r m => ⟨Nat.div_mul_le_self .., ?below, fun hr => ⟨?product, scale_le hr m⟩, ?one, ?zero⟩
  case below => exact (Nat.div_lt_iff_lt_mul (by decide)).mp (Nat.lt_succ_self (scale r m))
  case product =>
    calc r.toNat * m.toNat < 2 ^ 16 * 2 ^ 16 := Nat.mul_lt_mul'' r.isLt m.isLt
      _ = 2 ^ 32 := by decide
  case one => exact Nat.mul_div_cancel_left m.toNat (by decide)
  case zero => simp [scale]

/-! ### The statements' own spellings (R33, R111) -/

theorem posWord_eq_positionWord (s : State) (k : Fin 6) : posWord s k = positionWord s k := rfl

theorem ratWord_eq_ratioWord (s : State) (k : Fin 6) : ratWord s k = ratioWord s k := rfl

theorem bound_eq_upperBound (s : State) (k : Fin 6) : bound s k = upperBound s k := rfl

/-! ### CLAMP and CLAMP_RATIO (R107, R108) -/

theorem exec_clamp_of_uncalibrated (hcal : calValid s.flags = false) :
    exec .clamp s = .next (({ s with posOut := Axes.ofFn (positionWord s) }.setUncal true).setStatus .ok) :=
  if_neg (Bool.eq_false_iff.mp hcal)

theorem exec_clamp_of_rangeEmpty (hcal : calValid s.flags = true) {k : Fin 6} (hk : upperBound s k < 1) :
    exec .clamp s = .next (s.setStatus .clampRangeEmpty) :=
  (if_pos hcal).trans (if_pos (someRangeEmpty_iff.mpr ⟨k, hk⟩))

theorem exec_clamp_of_ranges (hcal : calValid s.flags = true) (hrange : ∀ k, 1 ≤ upperBound s k) :
    exec .clamp s =
      .next (({ s with posOut := clampedOut s fun k => (positionWord s k).toInt }.setUncal false).setStatus .ok) :=
  (if_pos hcal).trans (if_neg (Bool.eq_false_iff.mp (someRangeEmpty_eq_false.mpr hrange)))

theorem exec_clampRatio_of_uncalibrated (hcal : calValid s.flags = false) :
    exec .clampRatio s = .next (s.setStatus .notCalibrated) :=
  if_neg (Bool.eq_false_iff.mp hcal)

theorem exec_clampRatio_of_rangeEmpty (hcal : calValid s.flags = true) {k : Fin 6} (hk : upperBound s k < 1) :
    exec .clampRatio s = .next (s.setStatus .clampRangeEmpty) :=
  (if_pos hcal).trans (if_pos (someRangeEmpty_iff.mpr ⟨k, hk⟩))

theorem exec_clampRatio_of_ranges (hcal : calValid s.flags = true) (hrange : ∀ k, 1 ≤ upperBound s k) :
    exec .clampRatio s =
      .next ({ s with posOut := clampedOut s fun k => scale (ratioWord s k) (s.calmax.get k) }.setStatus .ok) :=
  (if_pos hcal).trans (if_neg (Bool.eq_false_iff.mp (someRangeEmpty_eq_false.mpr hrange)))

/-- A clamped position as the statements give it: the register holds the bounded integer itself. -/
theorem clampedOut_toInt_bounded {k : Fin 6} (hk : 1 ≤ upperBound s k) (p : Fin 6 → Int) :
    ((clampedOut s p).get k).toInt = bounded (p k) (upperBound s k) :=
  (clampedOut_toInt hk).trans (clampv_eq_bounded hk (p k))

/-- Settles O47: the three outcomes, by the calibration test and then the ranges. -/
theorem clampBoundsPositions : Obligations.ClampBoundsPositions := by
  unfold Obligations.ClampBoundsPositions
  refine ⟨encodedAs_instrOf .clamp, fun s => ?_⟩
  simp only [posWord_eq_positionWord, bound_eq_upperBound]
  refine ⟨fun hcal => ?uncalibrated, fun hcal =>
    ⟨fun _ hk => exec_clamp_of_rangeEmpty hcal hk, fun hrange => ?clamped⟩⟩
  case uncalibrated =>
    exact ⟨_, exec_clamp_of_uncalibrated hcal, Axes.get_ofFn (positionWord s), uncal_withUncal true s.flags,
      (calValid_withUncal true s.flags).trans hcal, rfl⟩
  case clamped =>
    have hout := fun k => clampedOut_toInt_bounded (hrange k) fun k => (positionWord s k).toInt
    exact ⟨_, exec_clamp_of_ranges hcal hrange, hout, uncal_withUncal false s.flags,
      (calValid_withUncal false s.flags).trans hcal, rfl⟩

/-- Settles O48: the three outcomes, by the calibration test and then the ranges. -/
theorem clampRatioScalesAndBounds : Obligations.ClampRatioScalesAndBounds := by
  unfold Obligations.ClampRatioScalesAndBounds
  refine ⟨encodedAs_instrOf .clampRatio, fun s => ?_⟩
  simp only [ratWord_eq_ratioWord, bound_eq_upperBound]
  refine ⟨exec_clampRatio_of_uncalibrated, fun hcal =>
    ⟨fun _ hk => exec_clampRatio_of_rangeEmpty hcal hk, fun hrange => ?clamped⟩⟩
  case clamped =>
    have hout := fun k => clampedOut_toInt_bounded (hrange k) fun k => scale (ratioWord s k) (s.calmax.get k)
    exact ⟨_, exec_clampRatio_of_ranges hcal hrange, hout, rfl⟩

/-! ### The safe range (R109) -/

/-- What a calibrated CLAMP or CLAMP_RATIO writes when it ends with OK: whatever is commanded, it is clamped, and every range
is legal. -/
theorem posOut_of_clamp_ok {i : Instr} (hi : i = .clamp ∨ i = .clampRatio) (hcal : calValid s.flags = true)
    (he : exec i s = .next t) (hok : t.status = statusCode .ok) :
    (∀ k, 1 ≤ upperBound s k) ∧ ∃ p, t.posOut = clampedOut s p := by
  rcases hi with rfl | rfl
  case inl =>
    rcases execClamp_next he with ⟨huncal, -⟩ | ⟨-, -, rfl⟩ | ⟨-, hrange, rfl⟩
    · exact absurd hcal (Bool.eq_false_iff.mp huncal)
    · exact absurd hok (by simp [statusCode])
    · exact ⟨hrange, fun k => (positionWord s k).toInt, rfl⟩
  case inr =>
    rcases execClampRatio_next he with ⟨huncal, -⟩ | ⟨-, -, rfl⟩ | ⟨-, hrange, rfl⟩
    · exact absurd hcal (Bool.eq_false_iff.mp huncal)
    · exact absurd hok (by simp [statusCode])
    · exact ⟨hrange, fun k => scale (ratioWord s k) (s.calmax.get k), rfl⟩

/-- Settles O49: clampv in its three cases, then its range at each axis of a clamped file. -/
theorem clampedPositionsStayInRange : Obligations.ClampedPositionsStayInRange := by
  unfold Obligations.ClampedPositionsStayInRange
  refine ⟨fun p h hh => ⟨fun hp => clampv_of_lt_one hp h, clampv_of_gt hh, clampv_of_mem, one_le_clampv hh p,
    clampv_le hh p⟩, fun i s t hi hcal he hok k => ?_⟩
  obtain ⟨hrange, p, hp⟩ := posOut_of_clamp_ok hi hcal he hok
  have hle : clampv (p k) (upperBound s k) ≤ upperBound s k := clampv_le (hrange k) _
  rw [hp, clampedOut_toInt (hrange k)]
  exact ⟨one_le_clampv (hrange k) _, hle.trans (upperBound_le s k), hle⟩

end Sys2Proof.Machine
end

section
/-! SUPPORT. How a command ends (60_exceptions.md): with a STATUS of its row in R114, and, where that is not OK, with nothing
changed but STATUS and the details of that row (R116). One law per kind of ending, and the obligations put together from them. -/

namespace Sys2Proof.Machine

open Sys2Proof.Claims

variable {s t : State} {op : Opcode}

/-! ### The kinds of ending -/

/-- What R114 and R116 say of a command that takes `s` to `t`. -/
structure EndsAsListed (op : Opcode) (s t : State) : Prop where
  listed : t.status ∈ statusesOf op
  keeps : t.status ≠ 0x00#8 → FailureKeeps op s t

theorem ok_mem_statusesOf (op : Opcode) : 0x00#8 ∈ statusesOf op := by
  cases op <;> exact .head _

/-- A command that ends with OK may have changed anything. -/
theorem EndsAsListed.ok {u : State} : EndsAsListed op s (u.setStatus .ok) where
  listed := ok_mem_statusesOf op
  keeps hne := absurd rfl hne

/-- Writing STATUS alone is within every row of R114. -/
theorem failureKeeps_setStatus (op : Opcode) (s : State) (c : Status) : FailureKeeps op s (s.setStatus c) := by
  unfold FailureKeeps
  split_ifs <;> rfl

/-- A failure that has written details into `u`. -/
theorem EndsAsListed.raiseDetails {u : State} {c : Status} (hc : statusCode c ∈ statusesOf op)
    (hkeeps : FailureKeeps op s (u.setStatus c)) : EndsAsListed op s (u.setStatus c) :=
  ⟨hc, fun _ => hkeeps⟩

/-- A failure that has written no detail. -/
theorem EndsAsListed.raise {c : Status} (hc : statusCode c ∈ statusesOf op) : EndsAsListed op s (s.setStatus c) :=
  .raiseDetails hc (failureKeeps_setStatus op s c)

/-- The operand check that most commands make: INVALID_ARGUMENT stands second in their rows. -/
theorem EndsAsListed.invalidArgument (hop : statusCode .invalidArgument ∈ statusesOf op := by exact .tail _ (.head _)) :
    EndsAsListed op s (s.setStatus .invalidArgument) :=
  .raise hop

/-! ### Commands with detail registers -/

/-- CRC_CHECK (R67): the mismatch has written LASTCRC. -/
theorem execCrcCheck_endsAsListed (he : execCrcCheck s = .next t) : EndsAsListed .crcCheck s t := by
  rcases execCrcCheck_next he with ⟨-, rfl⟩ | ⟨-, -, rfl⟩ | ⟨-, -, rfl⟩
  · exact .raise (by decide)
  · exact .raiseDetails (by decide) rfl
  · exact .ok

/-- DEC_RESP, outcome by outcome (R84 to R90): each check that fails has written the details of the checks before it. -/
theorem execDecResp_endsAsListed {fe : Byte} {cnt : Half} (he : execDecResp fe cnt s = .next t) :
    EndsAsListed .decResp s t := by
  rcases execDecResp_next he with ⟨-, rfl⟩ | ⟨-, ⟨-, rfl⟩ | ⟨-, -, rfl⟩ | ⟨-, -, hresponse⟩⟩
  · exact .invalidArgument
  · exact .raiseDetails (by decide) rfl
  · exact .raiseDetails (by decide) rfl
  rcases hresponse with ⟨-, ⟨-, rfl⟩ | ⟨-, rfl⟩⟩ | ⟨-, -, rfl⟩ | ⟨-, -, -, rfl⟩ | ⟨-, -, -, ⟨-, rfl⟩ | ⟨-, rfl⟩⟩
  · exact .ok
  · exact .raiseDetails (by decide) rfl
  · exact .raiseDetails (by decide) rfl
  · exact .ok
  · exact .raiseDetails (by decide) rfl
  · exact .ok

/-! ### Commands -/

/-- ADDR_LINEAR and ADDR_FORCE, by the row of each. -/
theorem generateAddress_endsAsListed {base : Half} {axis : Byte} {stride : Nat}
    (hop : statusCode .invalidArgument ∈ statusesOf op) (he : generateAddress base axis stride s = .next t) :
    EndsAsListed op s t := by
  rcases generateAddress_next he with ⟨-, rfl⟩ | ⟨-, -, a, -, rfl⟩
  · exact .invalidArgument hop
  · exact .ok

/-- DEC_RESP and CRC_CHECK aside, an outcome that raises writes STATUS and nothing else. -/
theorem exec_endsAsListed {i : Instr} (he : exec i s = .next t) : EndsAsListed i.opcode s t := by
  cases i with
  | crcInit =>
    obtain rfl := execCrcInit_next he
    exact .ok
  | crcByte b =>
    obtain rfl := execCrcByte_next he
    exact .ok
  | crcCheck => exact execCrcCheck_endsAsListed he
  | rxClear =>
    obtain rfl := execRxClear_next he
    exact .ok
  | rxPush b =>
    rcases execRxPush_next he with ⟨-, rfl⟩ | ⟨-, rfl⟩
    · exact .raise (op := .rxPush) (by decide)
    · exact .ok
  | dwWrite index value =>
    rcases execDwWrite_next he with ⟨-, rfl⟩ | ⟨-, rfl⟩
    · exact .invalidArgument
    · exact .ok
  | encRead unit address count =>
    rcases execEncRead_next he with ⟨-, rfl⟩ | ⟨-, -, -, rfl⟩
    · exact .invalidArgument
    · exact .ok
  | encWrite1 unit address value =>
    rcases execEncWrite1_next he with ⟨-, rfl⟩ | ⟨-, rfl⟩
    · exact .invalidArgument
    · exact .ok
  | encWriteN unit address count =>
    rcases execEncWriteN_next he with ⟨-, rfl⟩ | ⟨-, -, -, rfl⟩
    · exact .invalidArgument
    · exact .ok
  | decResp fe cnt => exact execDecResp_endsAsListed he
  | addrLinear base axis => exact generateAddress_endsAsListed (op := .addrLinear) (by decide) he
  | addrForce base axis => exact generateAddress_endsAsListed (op := .addrForce) (by decide) he
  | packUniform mode =>
    obtain rfl := execPackUniform_next he
    exact .ok
  | packAxis axis mode =>
    rcases execPackAxis_next he with ⟨-, rfl⟩ | ⟨k, -, rfl⟩
    · exact .invalidArgument
    · exact .ok
  | unpack word =>
    obtain rfl := execUnpack_next he
    exact .ok
  | unpackDw index =>
    rcases execUnpackDw_next he with ⟨-, rfl⟩ | ⟨-, rfl⟩
    · exact .invalidArgument
    · exact .ok
  | calLoad =>
    rcases execCalLoad_next he with ⟨-, rfl⟩ | ⟨-, rfl⟩
    · exact .raise (op := .calLoad) (by decide)
    · exact .ok
  | calClear =>
    obtain rfl := execCalClear_next he
    exact .ok
  | posSet axis position =>
    rcases execPosSet_next he with ⟨-, rfl⟩ | ⟨k, -, rfl⟩
    · exact .invalidArgument
    · exact .ok
  | ratioSet axis ratio =>
    rcases execRatioSet_next he with ⟨-, rfl⟩ | ⟨k, -, -, rfl⟩
    · exact .invalidArgument
    · exact .ok
  | clamp =>
    rcases execClamp_next he with ⟨-, rfl⟩ | ⟨-, -, rfl⟩ | ⟨-, -, rfl⟩
    · exact .ok
    · exact .raise (op := .clamp) (by decide)
    · exact .ok
  | clampRatio =>
    rcases execClampRatio_next he with ⟨-, rfl⟩ | ⟨-, -, rfl⟩ | ⟨-, -, rfl⟩
    · exact .raise (op := .clampRatio) (by decide)
    · exact .raise (op := .clampRatio) (by decide)
    · exact .ok

/-- Settles O12: how each command ends, at the STATUS it leaves. -/
theorem statusCodesOfEachCommand : Obligations.StatusCodesOfEachCommand := by
  unfold Obligations.StatusCodesOfEachCommand
  exact fun i s t he => (exec_endsAsListed he).listed

/-- Settles O13: how each command ends, at the registers it keeps. -/
theorem failureChangesOnlyDetails : Obligations.FailureChangesOnlyDetails := by
  unfold Obligations.FailureChangesOnlyDetails
  exact fun i s t he => (exec_endsAsListed he).keeps

end Sys2Proof.Machine
end

section
/-! SUPPORT. The counter of resets (log 3): the block reads it through its free values only (log 4), so a command that finds every
byte and word it reads written (10_state.md R33, 70_reset_and_hazards.md R135) does the same whatever the counter is. -/

namespace Sys2Proof.Machine

open Sys2Proof.Claims

variable {s : State}

/-- The state with another count of resets: the same registers, the free values of another reset. -/
def State.withResets (s : State) (r : Nat) : State := { s with resets := r }

/-! ### What is read where it has been written -/

theorem rxByte_withResets {j : Nat} (hread : (s.rxbuf.read j).isSome) (r : Nat) :
    rxByte (s.withResets r) j = rxByte s j := by
  obtain ⟨b, hb⟩ := Option.isSome_iff_exists.mp hread
  rw [rxByte_of_read hb, rxByte_of_read (s := s.withResets r) hb]

theorem dataWord_withResets {j : Nat} (hread : (s.dw.read j).isSome) (r : Nat) :
    dataWord (s.withResets r) j = dataWord s j := by
  obtain ⟨w, hw⟩ := Option.isSome_iff_exists.mp hread
  rw [dataWord_of_read hw, dataWord_of_read (s := s.withResets r) hw]

theorem stagedWords_withResets {n : Nat} (hread : ∀ j, j < n → (s.dw.read j).isSome) (r : Nat) :
    stagedWords (s.withResets r) n = stagedWords s n :=
  List.map_congr_left fun j hj => dataWord_withResets (hread j (List.mem_range.mp hj)) r

theorem positionWord_withResets (htag : ∀ k, s.posTag.get k = true) (r : Nat) :
    positionWord (s.withResets r) = positionWord s :=
  funext fun k => (positionWord_of_tag (s := s.withResets r) (htag k)).trans (positionWord_of_tag (htag k)).symm

theorem ratioWord_withResets (htag : ∀ k, s.ratioTag.get k = true) (r : Nat) :
    ratioWord (s.withResets r) = ratioWord s :=
  funext fun k => (ratioWord_of_tag (s := s.withResets r) (htag k)).trans (ratioWord_of_tag (htag k)).symm

/-! ### The received frame (R84 to R89) -/

section

variable (hfilled : ∀ j, j < s.rxlen.toNat → (s.rxbuf.read j).isSome) (r : Nat)
include hfilled

theorem computedCrc_withResets : computedCrc (s.withResets r) = computedCrc s := by
  refine congrArg crc16 (List.map_congr_left fun j hj => rxByte_withResets (hfilled _ ?_) r)
  have : j < s.rxlen.toNat - 2 := List.mem_range.mp hj
  omega

theorem receivedCrc_withResets (h5 : 5 ≤ s.rxlen.toNat) : receivedCrc (s.withResets r) = receivedCrc s :=
  congrArg₂ half (rxByte_withResets (hfilled (s.rxlen.toNat - 1) (by omega)) r)
    (rxByte_withResets (hfilled (s.rxlen.toNat - 2) (by omega)) r)

theorem execCrcCheck_withResets :
    execCrcCheck (s.withResets r) = mapNext (·.withResets r) (execCrcCheck s) := by
  unfold execCrcCheck
  refine ite_eq_mapNext Iff.rfl (fun _ => rfl) fun h5 => ?_
  rw [computedCrc_withResets hfilled, receivedCrc_withResets hfilled r (not_lt.mp h5)]
  exact ite_eq_mapNext Iff.rfl (fun _ => rfl) fun _ => rfl

theorem takeException_withResets (h5 : 5 ≤ s.rxlen.toNat) :
    takeException (s.withResets r) = mapNext (·.withResets r) (takeException s) := by
  unfold takeException
  rw [rxByte_withResets (hfilled 2 (by omega))]
  exact ite_eq_mapNext Iff.rfl (fun _ => rfl) fun _ => rfl

theorem takeRegisters_withResets (h5 : 5 ≤ s.rxlen.toNat) (cnt : Half) :
    takeRegisters cnt (s.withResets r) = mapNext (·.withResets r) (takeRegisters cnt s) := by
  unfold takeRegisters
  refine ite_eq_mapNext Iff.rfl (fun _ => rfl) fun hcount => ?_
  have hvalues : responseValues (s.withResets r) cnt.toNat = responseValues s cnt.toNat := by
    refine List.map_congr_left fun i hi => ?_
    have hi := List.mem_range.mp hi
    exact congrArg₂ half (rxByte_withResets (hfilled _ (by omega)) r) (rxByte_withResets (hfilled _ (by omega)) r)
  rw [hvalues]
  rfl

theorem takeResponse_withResets (h5 : 5 ≤ s.rxlen.toNat) (fe : Byte) (cnt : Half) :
    takeResponse fe cnt (s.withResets r) = mapNext (·.withResets r) (takeResponse fe cnt s) := by
  unfold takeResponse
  rw [rxByte_withResets (hfilled 1 (by omega))]
  exact ite_eq_mapNext Iff.rfl (fun _ => takeException_withResets hfilled r h5) fun _ =>
    ite_eq_mapNext Iff.rfl (fun _ => rfl) fun _ =>
    ite_eq_mapNext Iff.rfl (fun _ => rfl) fun _ => takeRegisters_withResets hfilled r h5 cnt

theorem execDecResp_withResets (fe : Byte) (cnt : Half) :
    execDecResp fe cnt (s.withResets r) = mapNext (·.withResets r) (execDecResp fe cnt s) := by
  unfold execDecResp
  refine ite_eq_mapNext Iff.rfl (fun _ => ?_) fun _ => rfl
  refine ite_eq_mapNext Iff.rfl (fun _ => rfl) fun hlen => ?_
  have h5 := not_lt.mp hlen
  rw [computedCrc_withResets hfilled, receivedCrc_withResets hfilled r h5, rxByte_withResets (hfilled 0 (by omega)),
    rxByte_withResets (hfilled 1 (by omega))]
  exact ite_eq_mapNext Iff.rfl (fun _ => rfl) fun _ => takeResponse_withResets (s := s.withHeader) hfilled r h5 fe cnt

end

/-! ### Commands that read staged words (R79, R102, R103, R107, R108) -/

theorem execEncWriteN_withResets {unit : Byte} {address count : Half} (hstaged : Staged (.encWriteN unit address count) s)
    (r : Nat) :
    execEncWriteN unit address count (s.withResets r) = mapNext (·.withResets r) (execEncWriteN unit address count s) := by
  unfold execEncWriteN
  refine ite_eq_mapNext Iff.rfl (fun hop => ?_) fun _ => rfl
  rw [Bool.and_eq_true, unitOk_iff, countOk_iff] at hop
  rw [stagedWords_withResets (hstaged (wellFormed_encWriteN.mpr hop))]
  rfl

theorem execUnpackDw_withResets {index : Byte} (hstaged : Staged (.unpackDw index) s) (r : Nat) :
    execUnpackDw index (s.withResets r) = mapNext (·.withResets r) (execUnpackDw index s) := by
  unfold execUnpackDw
  split
  · rfl
  · rename_i j hj
    obtain ⟨rfl, hle⟩ := dataIndex?_eq_some.mp hj
    rw [dataWord_withResets (hstaged (wellFormed_unpackDw.mpr hle))]
    rfl

/-- The six words that CAL_LOAD reads are those of the response counted in RCOUNT (log 11). -/
theorem execCalLoad_withResets (h : s.Inv) (r : Nat) :
    execCalLoad (s.withResets r) = mapNext (·.withResets r) (execCalLoad s) := by
  unfold execCalLoad
  refine ite_eq_mapNext Iff.rfl (fun hcount => ?_) fun _ => rfl
  have hwords : (fun k : Fin 6 => dataWord (s.withResets r) k.val) = fun k : Fin 6 => dataWord s k.val := by
    funext k
    exact dataWord_withResets (h.countWritten k.val (by rw [hcount]; exact k.isLt)) r
  rw [hwords]
  rfl

theorem execClamp_withResets (hstaged : Staged .clamp s) (r : Nat) :
    execClamp (s.withResets r) = mapNext (·.withResets r) (execClamp s) := by
  unfold execClamp
  rw [positionWord_withResets hstaged]
  exact ite_eq_mapNext Iff.rfl (fun _ => ite_eq_mapNext Iff.rfl (fun _ => rfl) fun _ => rfl) fun _ => rfl

theorem execClampRatio_withResets (hstaged : Staged .clampRatio s) (r : Nat) :
    execClampRatio (s.withResets r) = mapNext (·.withResets r) (execClampRatio s) := by
  unfold execClampRatio
  refine ite_eq_mapNext Iff.rfl (fun hcal => ?_) fun _ => rfl
  rw [ratioWord_withResets (hstaged hcal)]
  exact ite_eq_mapNext Iff.rfl (fun _ => rfl) fun _ => rfl

/-! ### Every command -/

theorem generateAddress_withResets (s : State) (base : Half) (axis : Byte) (stride r : Nat) :
    generateAddress base axis stride (s.withResets r) = mapNext (·.withResets r) (generateAddress base axis stride s) := by
  unfold generateAddress
  split
  · rfl
  · split <;> rfl

/-- With its operands staged a command reads no free value. -/
theorem exec_withResets {i : Instr} (h : s.Inv) (hstaged : Staged i s) (r : Nat) :
    exec i (s.withResets r) = mapNext (·.withResets r) (exec i s) := by
  cases i with
  | crcInit | crcByte | rxClear | packUniform | unpack | calClear => rfl
  | crcCheck => exact execCrcCheck_withResets h.rxFilled r
  | rxPush b => exact ite_eq_mapNext Iff.rfl (fun _ => rfl) fun _ => rfl
  | dwWrite index value =>
    simp only [exec, execDwWrite]
    split <;> rfl
  | encRead unit address count => exact ite_eq_mapNext Iff.rfl (fun _ => rfl) fun _ => rfl
  | encWrite1 unit address value => exact ite_eq_mapNext Iff.rfl (fun _ => rfl) fun _ => rfl
  | encWriteN unit address count => exact execEncWriteN_withResets hstaged r
  | decResp fe cnt => exact execDecResp_withResets h.rxFilled r fe cnt
  | addrLinear base axis => exact generateAddress_withResets ..
  | addrForce base axis => exact generateAddress_withResets ..
  | packAxis axis mode =>
    simp only [exec, execPackAxis]
    split <;> rfl
  | unpackDw index => exact execUnpackDw_withResets hstaged r
  | calLoad => exact execCalLoad_withResets h r
  | posSet axis position =>
    simp only [exec, execPosSet]
    split <;> rfl
  | ratioSet axis ratio =>
    simp only [exec, execRatioSet]
    split
    · rfl
    · exact ite_eq_mapNext Iff.rfl (fun _ => rfl) fun _ => rfl
  | clamp => exact execClamp_withResets hstaged r
  | clampRatio => exact execClampRatio_withResets hstaged r

end Sys2Proof.Machine
end

section
/-! SUPPORT. The guard of R33 against the staging of R135, and the obligations on completion and reset (70_reset_and_hazards.md
R131, R133, R145). -/

namespace Sys2Proof.Machine

open Sys2Proof.Claims

variable {i : Instr} {s t : State}

/-! ### The guard -/

/-- A test for written tags finds no untagged read exactly where it passes. -/
theorem tagTest_eq_none {tagged : Prop} [Decidable tagged] {f : UntaggedRead} :
    (if tagged then none else some f) = none ↔ tagged := by
  rw [ite_eq_left_iff, imp_iff_not (by simp), not_not]

/-- The guard sees an untagged read exactly where the operands are not staged. -/
theorem untaggedRead?_eq_none : untaggedRead? i s = none ↔ Staged i s := by
  cases i with
  | encWriteN unit address count =>
    have hop : (unitOk unit && countOk count Config.maxWriteCount) = (Instr.encWriteN unit address count).wellFormed := by
      rw [Bool.eq_iff_iff, wellFormed_encWriteN, Bool.and_eq_true, unitOk_iff, countOk_iff]
      rfl
    simp only [untaggedRead?, Staged, hop, ite_eq_right_iff, tagTest_eq_none, dataTagged_iff]
  | unpackDw index =>
    simp only [untaggedRead?, Staged, wellFormed_unpackDw]
    split
    · rename_i hnone
      have hbad := dataIndex?_eq_none.mp hnone
      exact iff_of_true rfl fun hle => absurd hle (not_le.mpr hbad)
    · rename_i j hj
      obtain ⟨rfl, hle⟩ := dataIndex?_eq_some.mp hj
      rw [tagTest_eq_none, imp_iff_right hle]
  | clamp => simp only [untaggedRead?, Staged, tagTest_eq_none, Axes.allTagged_iff]
  | clampRatio => simp only [untaggedRead?, Staged, ite_eq_right_iff, tagTest_eq_none, Axes.allTagged_iff]
  | _ => exact iff_of_true rfl trivial

/-- The file a fault names is the one the command reads: POS_IN for CLAMP, RATIO for CLAMP_RATIO, DW otherwise. -/
theorem file_of_untaggedRead? {f : UntaggedRead} (h : untaggedRead? i s = some f) :
    f = if i = .clamp then .position else if i = .clampRatio then .ratio else .dataWord := by
  unfold untaggedRead? at h
  repeat' split at h
  all_goals cases h
  all_goals rfl

theorem execGuarded_of_staged (hstaged : Staged i s) (he : exec i s = .next t) : execGuarded i s = .next t := by
  rw [execGuarded_of_none (untaggedRead?_eq_none.mpr hstaged), he, unguarded_next]

theorem execGuarded_of_not_staged (h : ¬ Staged i s) :
    execGuarded i s = .fault (if i = .clamp then .position else if i = .clampRatio then .ratio else .dataWord) := by
  obtain ⟨f, hf⟩ := Option.ne_none_iff_exists'.mp (mt untaggedRead?_eq_none.mp h)
  rw [execGuarded_of_some hf, file_of_untaggedRead? hf]

/-! ### Completion (R145) -/

/-- An idle block, a command word of either kind and a reset each leave a next state. -/
theorem step_completes (s : State) : ∃ t, step s = .next t := by
  match hp : s.pending with
  | [] => exact ⟨_, step_of_pending_nil hp⟩
  | .command w :: rest =>
    rw [step_of_pending_command hp]
    cases hd : decode w with
    | command i =>
      rw [execWord_of_command hd]
      exact exec_completes i _
    | illegal why => exact ⟨_, execWord_of_illegal hd _⟩
  | .reset :: rest => exact ⟨_, step_of_pending_reset hp⟩

/-- Settles O14: completion of commands and of steps, commands under another counter of resets, and the guard where operands
are staged and where they are not. -/
theorem everyCommandCompletes : Obligations.EveryCommandCompletes := by
  unfold Obligations.EveryCommandCompletes
  exact ⟨exec_completes, step_completes, fun i s r h hstaged => exec_withResets h hstaged r,
    fun i s t => execGuarded_of_staged, fun i s => execGuarded_of_not_staged⟩

/-! ### Reset (R131, R133) -/

/-- Settles O9: the registers are read off the reset state, the six-axis files slot by slot. -/
theorem resetStateValues : Obligations.ResetStateValues := by
  unfold Obligations.ResetStateValues
  have haxes : ∀ k, State.reset.axf.get k = 0#2 ∧ State.reset.calmax.get k = 0#16 ∧ State.reset.posOut.get k = 0#32 := by
    decide
  have htags : ∀ k, State.reset.posTag.get k = false ∧ State.reset.ratioTag.get k = false := by
    decide
  exact ⟨rfl, rfl, rfl, rfl, rfl, rfl, rfl, rfl, rfl, rfl, rfl, rfl, rfl, haxes, htags, fun j => Mem.read_nil j⟩

/-- Settles O10: the step takes the reset, whatever the state was. -/
theorem resetRestoresEveryRegister : Obligations.ResetRestoresEveryRegister := by
  unfold Obligations.ResetRestoresEveryRegister
  exact fun s rest hp => ⟨s.takeReset rest, step_of_pending_reset hp, rfl⟩

/-- Settles O58: nothing is written and every length is 0, so no frame stands in TXBUF. -/
theorem resetHasInvariant : Obligations.ResetHasInvariant := by
  unfold Obligations.ResetHasInvariant
  exact ⟨reset_inv, .inl rfl⟩

end Sys2Proof.Machine
end
